-- ==== Sys2Proof/Word.lean ====
section
/-! DEFINITION. The widths of the ports (spec 00_scope.md R7) as names for bit vectors. -/

namespace Sys2Proof

/-- A command word, CMD_W = 64 bits (R7, R80). -/
abbrev CmdWord := BitVec 64

/-- A 32-bit value: operand, symbol (SYM_W), counter (CNT_W), CSR or result data (R7). -/
abbrev Word32 := BitVec 32

/-- One byte of a job's input or output (R160, R82). -/
abbrev Byte := BitVec 8

/-- A CSR word address, CSR_AW = 8 bits (R7, R56). -/
abbrev CsrAddr := BitVec 8

end Sys2Proof
end

