-- ==== Sys2Proof/Config.lean ====
section
/-! DEFINITION. What a build of the block fixes: the four profiles, and the two OPEN parameters of
spec 00_scope.md R7 (OUT_DEPTH and SYMTAB) as constants without a body, so that no proof can lean on a
value of theirs (10_state.md R38; log entries 1 and 2). -/

namespace Sys2Proof

/-- The alphabet profiles (R3, R24). No other alphabet exists. -/
inductive Profile where
  | tiny
  | small
  | standard
  | large
deriving DecidableEq, Repr

/-- OUT_DEPTH is this plus 2, so 2 <= OUT_DEPTH <= 31 and nothing else is known of it (R7, D6; log 1). -/
opaque Config.depthAboveTwo : Fin 30

/-- The contents of `symbol_table_lut`: SYMTAB(p, i) is the value of this permutation at i. Restricted to
the indices of a profile the permutations give exactly the injective tables of R29, and nothing else is
known of it (D10; log 2; `Laws.every_injective_table_is_a_permutation`). -/
opaque Config.symbolCode : Profile → Equiv.Perm Word32

end Sys2Proof
end

