-- ==== Sys2Proof/Syntax.lean ====
section
/-! DEFINITION. The commands (spec 30_encoding.md R83), the fields of format C (R80), the CSR names
(44_csr.md R183), and the lines of the assembler with its pseudo-instructions (R86, R87). -/

namespace Sys2Proof

/-- The commands: one constructor per row of opcode_table.json (R83). -/
inductive Instr where
  | nop
  | startPack
  | startUnpack
  | flush
  | abort
  /-- PUSH_BYTE b, b = OPD[7:0] (R82). -/
  | pushByte (b : Byte)
  /-- PUSH_SYM s, s = OPD[31:0] (R82). -/
  | pushSym (sym : Word32)
  /-- PUSH_IDX x, x = OPD[31:0], range-checked at execution (R82). -/
  | pushIdx (x : Word32)
  /-- LUT_FWD x (R82). -/
  | lutFwd (x : Word32)
  /-- LUT_REV s (R82). -/
  | lutRev (sym : Word32)
  /-- WRCSR a, v with a = CSR[7:0], v = OPD[31:0] (R82). -/
  | wrcsr (a : CsrAddr) (v : Word32)
deriving DecidableEq, Repr

/-- The four fields of format C (R80). -/
structure Fields where
  opc : BitVec 8
  csr : BitVec 8
  rsv : BitVec 16
  opd : BitVec 32
deriving DecidableEq, Repr

/-- The names of the implemented CSRs, in address order (R183). -/
inductive CsrName where
  | id
  | config
  | status
  | acc
  | inCount
  | outCount
  | errCode
  | errCmdLo
  | errCmdHi
  | errPos
  | irqEn
  | irqPend
  | profileInfo
deriving DecidableEq, Repr

/-- How an assembler line names a CSR: by name or by an 8-bit number (R86). -/
inductive CsrRef where
  | named (c : CsrName)
  | number (a : Nat)
deriving DecidableEq, Repr

/-- An assembler line: a command (R86) or a pseudo-instruction (R87). Operands are the written numbers. -/
inductive AsmLine where
  | nop
  | startPack
  | startUnpack
  | flush
  | abort
  | pushB (b : Nat)
  | pushS (s : Nat)
  | pushI (x : Nat)
  | lutF (x : Nat)
  | lutR (s : Nat)
  | wrcsr (a : CsrRef) (v : Nat)
  | setProf (p : Profile)
  | setProfIdx (p : Profile)
  | clrIrq (m : Nat)
  | enIrq (m : Nat)
  | pack (bs : List Nat)
  | unpack (ss : List Nat)
  | unpackI (xs : List Nat)
deriving DecidableEq, Repr

end Sys2Proof
end

