-- ==== Sys2Proof/WellFormed.lean ====
section
/-! DEFINITION. Well-formedness: the legality predicate on the fields of a word (spec 30_encoding.md R84),
written down independently of the decoder, and the operand ranges the assembler insists on (R86).
A term of `Instr` holds fields of exactly the widths of R80 and R82, so each one is well-formed by type. -/

namespace Sys2Proof

/-- `Legal` on the four fields (R84). -/
def Fields.legal (f : Fields) : Bool :=
  f.rsv == 0#16 &&
  ((([0x00#8, 0x01#8, 0x02#8, 0x03#8, 0x04#8].contains f.opc) && f.csr == 0#8 && f.opd == 0#32)
   || (f.opc == 0x10#8 && f.csr == 0#8 && f.opd.extractLsb' 8 24 == 0#24)
   || (([0x11#8, 0x12#8, 0x20#8, 0x21#8].contains f.opc) && f.csr == 0#8)
   || f.opc == 0x30#8)

/-- The written CSR reference fits the 8-bit CSR field (R86). -/
def CsrRef.wellFormed : CsrRef → Bool
  | .named _ => true
  | .number a => a < 2 ^ 8

/-- The assembler refuses PUSH.B with b > 255 and any operand wider than its field (R86); the operands of a
pseudo-instruction are those of the lines it expands to (R87). -/
def AsmLine.wellFormed : AsmLine → Bool
  | .nop => true
  | .startPack => true
  | .startUnpack => true
  | .flush => true
  | .abort => true
  | .pushB b => b < 2 ^ 8
  | .pushS s => s < 2 ^ 32
  | .pushI x => x < 2 ^ 32
  | .lutF x => x < 2 ^ 32
  | .lutR s => s < 2 ^ 32
  | .wrcsr a v => a.wellFormed && v < 2 ^ 32
  | .setProf _ => true
  | .setProfIdx _ => true
  | .clrIrq m => m < 2 ^ 32
  | .enIrq m => m < 2 ^ 32
  | .pack bs => bs.all (fun b => b < 2 ^ 8)
  | .unpack ss => ss.all (fun s => s < 2 ^ 32)
  | .unpackI xs => xs.all (fun x => x < 2 ^ 32)

end Sys2Proof
end

