-- ==== Sys2Proof/Decode.lean ====
section
/-! DEFINITION. Decoding a 64-bit word (spec 30_encoding.md R80 to R85), the encoder, the opcode table as
the manual prints it (R83), and the words of an assembler line (R86, R87). Decoding depends only on the
word's bits (R81). -/

namespace Sys2Proof

/-- The opcodes of R83. -/
inductive Opcode where
  | nop
  | startPack
  | startUnpack
  | flush
  | abort
  | pushByte
  | pushSym
  | pushIdx
  | lutFwd
  | lutRev
  | wrcsr
deriving DecidableEq, Repr

/-- The OPC value of each command (R83). -/
def Opcode.code : Opcode → BitVec 8
  | .nop => 0x00#8
  | .startPack => 0x01#8
  | .startUnpack => 0x02#8
  | .flush => 0x03#8
  | .abort => 0x04#8
  | .pushByte => 0x10#8
  | .pushSym => 0x11#8
  | .pushIdx => 0x12#8
  | .lutFwd => 0x20#8
  | .lutRev => 0x21#8
  | .wrcsr => 0x30#8

/-- The listed opcodes, in the order of R83. -/
def Opcode.listed : List Opcode :=
  [.nop, .startPack, .startUnpack, .flush, .abort, .pushByte, .pushSym, .pushIdx, .lutFwd, .lutRev, .wrcsr]

/-- The command an OPC value stands for; none for the reserved values (R85). -/
def Opcode.ofCode (c : BitVec 8) : Option Opcode :=
  Opcode.listed.find? (fun o => o.code == c)

/-- Why a word is illegal (R85). Every one of these raises ILLEGAL_CMD; the name is the model's (log 14). -/
inductive DecodeError where
  /-- OPC is not listed in R83. -/
  | reservedOpcode
  /-- CSR is not 0 and the command is not WRCSR. -/
  | nonzeroCsr
  /-- RSV is not 0. -/
  | nonzeroRsv
  /-- OPD, or OPD[31:8] for PUSH_BYTE, is not 0 where R82 says it must be. -/
  | nonzeroOpd
deriving DecidableEq, Repr

/-- The fields of a word (R80). -/
def fieldsOf (w : CmdWord) : Fields where
  opc := w.extractLsb' 56 8
  csr := w.extractLsb' 48 8
  rsv := w.extractLsb' 32 16
  opd := w.extractLsb' 0 32

/-- The word with the given fields (R80). -/
def wordOf (f : Fields) : CmdWord :=
  f.opc ++ f.csr ++ f.rsv ++ f.opd

/-- `Legal(w)` (R84). -/
def legal (w : CmdWord) : Bool :=
  (fieldsOf w).legal

/-- A command other than WRCSR: CSR must be 0 (R83). -/
def requireNoCsr (f : Fields) (i : Instr) : Except DecodeError Instr :=
  if f.csr = 0#8 then .ok i else .error .nonzeroCsr

/-- A command without operand: CSR and OPD must be 0 (R82). -/
def requireNoOperand (f : Fields) (i : Instr) : Except DecodeError Instr :=
  if f.opd = 0#32 then requireNoCsr f i else .error .nonzeroOpd

/-- PUSH_BYTE: OPD[31:8] must be 0 (R82). -/
def requireByte (f : Fields) (i : Instr) : Except DecodeError Instr :=
  if f.opd.extractLsb' 8 24 = 0#24 then requireNoCsr f i else .error .nonzeroOpd

/-- The command of the fields, once OPC is known and RSV is 0 (R82, R83). -/
def decodeOperands (f : Fields) : Opcode → Except DecodeError Instr
  | .nop => requireNoOperand f .nop
  | .startPack => requireNoOperand f .startPack
  | .startUnpack => requireNoOperand f .startUnpack
  | .flush => requireNoOperand f .flush
  | .abort => requireNoOperand f .abort
  | .pushByte => requireByte f (.pushByte (f.opd.extractLsb' 0 8))
  | .pushSym => requireNoCsr f (.pushSym f.opd)
  | .pushIdx => requireNoCsr f (.pushIdx f.opd)
  | .lutFwd => requireNoCsr f (.lutFwd f.opd)
  | .lutRev => requireNoCsr f (.lutRev f.opd)
  | .wrcsr => .ok (.wrcsr f.csr f.opd)

/-- Decoding of the fields, total (R84, R85). -/
def decodeFields (f : Fields) : Except DecodeError Instr :=
  match Opcode.ofCode f.opc with
  | none => .error .reservedOpcode
  | some op => if f.rsv = 0#16 then decodeOperands f op else .error .nonzeroRsv

/-- Decoding of a word, total (R81, R83). -/
def decode (w : CmdWord) : Except DecodeError Instr :=
  decodeFields (fieldsOf w)

/-- The fields of a command (R82, R83). -/
def fieldsOfInstr : Instr → Fields
  | .nop => ⟨0x00#8, 0#8, 0#16, 0#32⟩
  | .startPack => ⟨0x01#8, 0#8, 0#16, 0#32⟩
  | .startUnpack => ⟨0x02#8, 0#8, 0#16, 0#32⟩
  | .flush => ⟨0x03#8, 0#8, 0#16, 0#32⟩
  | .abort => ⟨0x04#8, 0#8, 0#16, 0#32⟩
  | .pushByte b => ⟨0x10#8, 0#8, 0#16, b.setWidth 32⟩
  | .pushSym sym => ⟨0x11#8, 0#8, 0#16, sym⟩
  | .pushIdx x => ⟨0x12#8, 0#8, 0#16, x⟩
  | .lutFwd x => ⟨0x20#8, 0#8, 0#16, x⟩
  | .lutRev sym => ⟨0x21#8, 0#8, 0#16, sym⟩
  | .wrcsr a v => ⟨0x30#8, a, 0#16, v⟩

/-- The word of a command (R86, the column 'encodes'). -/
def encode (i : Instr) : CmdWord :=
  wordOf (fieldsOfInstr i)

/-- The instruction read from a table word: the command word is one 64-bit word, whose bit 0 is the table's
bit 0; the bits above `nbits` are 0 (log 13). -/
def decodeTableWord (nbits w : Nat) : Option Instr :=
  match decode (BitVec.ofNat 64 (w % 2 ^ nbits)) with
  | .ok i => some i
  | .error _ => none

/-- A row of the opcode map (R83). -/
structure OpcodeRow where
  mnemonic : String
  mask : CmdWord
  pattern : CmdWord
deriving DecidableEq, Repr

/-- The opcode map, mask and match as printed (R83). The decoder does not read it. -/
def opcodeTable : List OpcodeRow :=
  [⟨"NOP", 0xFFFFFFFFFFFFFFFF#64, 0x0000000000000000#64⟩,
   ⟨"START_PACK", 0xFFFFFFFFFFFFFFFF#64, 0x0100000000000000#64⟩,
   ⟨"START_UNPACK", 0xFFFFFFFFFFFFFFFF#64, 0x0200000000000000#64⟩,
   ⟨"FLUSH", 0xFFFFFFFFFFFFFFFF#64, 0x0300000000000000#64⟩,
   ⟨"ABORT", 0xFFFFFFFFFFFFFFFF#64, 0x0400000000000000#64⟩,
   ⟨"PUSH_BYTE", 0xFFFFFFFFFFFFFF00#64, 0x1000000000000000#64⟩,
   ⟨"PUSH_SYM", 0xFFFFFFFF00000000#64, 0x1100000000000000#64⟩,
   ⟨"PUSH_IDX", 0xFFFFFFFF00000000#64, 0x1200000000000000#64⟩,
   ⟨"LUT_FWD", 0xFFFFFFFF00000000#64, 0x2000000000000000#64⟩,
   ⟨"LUT_REV", 0xFFFFFFFF00000000#64, 0x2100000000000000#64⟩,
   ⟨"WRCSR", 0xFF00FFFF00000000#64, 0x3000000000000000#64⟩]

/-- A word spells a row's command: `(w & mask) == match` (R83). -/
def OpcodeRow.matchesWord (r : OpcodeRow) (w : CmdWord) : Bool :=
  (w &&& r.mask) == r.pattern

/-- The mnemonic of a command (R83). -/
def Instr.mnemonic : Instr → String
  | .nop => "NOP"
  | .startPack => "START_PACK"
  | .startUnpack => "START_UNPACK"
  | .flush => "FLUSH"
  | .abort => "ABORT"
  | .pushByte _ => "PUSH_BYTE"
  | .pushSym _ => "PUSH_SYM"
  | .pushIdx _ => "PUSH_IDX"
  | .lutFwd _ => "LUT_FWD"
  | .lutRev _ => "LUT_REV"
  | .wrcsr _ _ => "WRCSR"

/-- The address of a CSR (R183). -/
def CsrName.address : CsrName → CsrAddr
  | .id => 0x00#8
  | .config => 0x01#8
  | .status => 0x02#8
  | .acc => 0x03#8
  | .inCount => 0x04#8
  | .outCount => 0x05#8
  | .errCode => 0x06#8
  | .errCmdLo => 0x07#8
  | .errCmdHi => 0x08#8
  | .errPos => 0x09#8
  | .irqEn => 0x0A#8
  | .irqPend => 0x0B#8
  | .profileInfo => 0x0C#8

/-- The implemented CSRs (R183). -/
def CsrName.implemented : List CsrName :=
  [.id, .config, .status, .acc, .inCount, .outCount, .errCode, .errCmdLo, .errCmdHi, .errPos, .irqEn,
   .irqPend, .profileInfo]

/-- The CSR at an address; none for 0x0D to 0xFF (R182, R183). -/
def CsrName.ofAddress (a : CsrAddr) : Option CsrName :=
  CsrName.implemented.find? (fun c => c.address == a)

/-- The PROFILE code of a profile (R24). -/
def Profile.code : Profile → BitVec 4
  | .tiny => 0#4
  | .small => 1#4
  | .standard => 2#4
  | .large => 3#4

/-- The address an assembler line names (R86). -/
def CsrRef.address : CsrRef → CsrAddr
  | .named c => c.address
  | .number a => BitVec.ofNat 8 a

/-- The commands of an assembler line: itself (R86), or the expansion of a pseudo-instruction (R87). -/
def AsmLine.expand : AsmLine → List Instr
  | .nop => [.nop]
  | .startPack => [.startPack]
  | .startUnpack => [.startUnpack]
  | .flush => [.flush]
  | .abort => [.abort]
  | .pushB b => [.pushByte (BitVec.ofNat 8 b)]
  | .pushS s => [.pushSym (BitVec.ofNat 32 s)]
  | .pushI x => [.pushIdx (BitVec.ofNat 32 x)]
  | .lutF x => [.lutFwd (BitVec.ofNat 32 x)]
  | .lutR s => [.lutRev (BitVec.ofNat 32 s)]
  | .wrcsr a v => [.wrcsr a.address (BitVec.ofNat 32 v)]
  | .setProf p => [.wrcsr CsrName.config.address (p.code.setWidth 32)]
  | .setProfIdx p => [.wrcsr CsrName.config.address (p.code.setWidth 32 + 16#32)]
  | .clrIrq m => [.wrcsr CsrName.irqPend.address (BitVec.ofNat 32 m)]
  | .enIrq m => [.wrcsr CsrName.irqEn.address (BitVec.ofNat 32 m)]
  | .pack bs => [.startPack] ++ bs.map (fun b => .pushByte (BitVec.ofNat 8 b)) ++ [.flush]
  | .unpack ss => [.startUnpack] ++ ss.map (fun s => .pushSym (BitVec.ofNat 32 s)) ++ [.flush]
  | .unpackI xs => [.startUnpack] ++ xs.map (fun x => .pushIdx (BitVec.ofNat 32 x)) ++ [.flush]

/-- The words of an assembler line; none where the assembler refuses it (R86, R87). -/
def AsmLine.assemble (l : AsmLine) : Option (List CmdWord) :=
  if l.wellFormed then some (l.expand.map encode) else none

end Sys2Proof
end

