-- ==== Sys2Proof/Machine/State.lean ====
section
/-! DEFINITION. The state of the block (spec 10_state.md) as plain data, the host's side of the ports (log 3),
the reasons a step can stop, and the state after reset (10_state.md R37). -/

namespace Sys2Proof.Machine

/-- MODE, the state of the current job (R22). -/
inductive Mode where
  | idle
  | pack
  | unpack
  | error
deriving DecidableEq, Repr

/-- The tag of a result item (R33). -/
inductive Tag where
  | sym
  | idx
  | byte
  | lut
  /-- END (R33). -/
  | jobEnd
  | err
  | aborted
  | lutMiss
deriving DecidableEq, Repr

/-- One result item (R33). -/
structure Item where
  tag : Tag
  data : Word32
deriving DecidableEq, Repr

/-- The errors the block raises (60_exceptions.md R201). They are entered, not stopped on (R206). -/
inductive ErrorKind where
  | unknownSymbol
  | indexRange
  | illegalCmd
  | sequenceError
  | illegalCsr
deriving DecidableEq, Repr

/-- The host's input pins at one rising edge of `clk`, but for `cmd_data` (20_memory.md R55; log 3).
`cmdValid` counts only while the host has a word to offer. -/
structure HostEdge where
  rstN : Bool
  cmdValid : Bool
  resReady : Bool
deriving DecidableEq, Repr

/-- The state of the block and, in the last two fields, what the host has still to do at its ports. -/
structure State where
  /-- MODE (R22). -/
  mode : Mode
  /-- CONFIG.PROFILE (R23). -/
  profile : Profile
  /-- CONFIG.EMIT_IDX (R23). -/
  emitIdx : Bool
  /-- ACC (R26). -/
  acc : BitVec 18
  /-- HELD (R27). -/
  held : BitVec 5
  /-- IN_COUNT (R31). -/
  inCount : Word32
  /-- OUT_COUNT (R31). -/
  outCount : Word32
  /-- ERR_CODE (R32). -/
  errCode : BitVec 8
  /-- ERR_CMDLO (R32). -/
  errCmdLo : Word32
  /-- ERR_CMDHI (R32). -/
  errCmdHi : Word32
  /-- ERR_POS (R32). -/
  errPos : Word32
  /-- The result FIFO, head first (R33). -/
  fifo : List Item
  /-- IRQ_EN, bit 0 ERR, bit 1 END (R34). -/
  irqEn : BitVec 2
  /-- IRQ_PEND, bit 0 ERR, bit 1 END (R34). -/
  irqPend : BitVec 2
  /-- The position of the next command in the host's command sequence (R21; log 7). -/
  cmdPos : Nat
  /-- The model's own: the words the host has still to have accepted, next first (R38, R51; log 3). -/
  offered : List CmdWord
  /-- The model's own: the host's pins at the coming edges, next first (R55; log 3, log 4). -/
  edges : List HostEdge
deriving DecidableEq, Repr

/-- Why the machine stops. -/
inductive Fault where
  /-- Raised by `step` alone, never by a command: a word is offered, `cmd_ready = 0` for want of FIFO space, and
  the host's schedule holds no further edge, so no pop can lift the hold (93_implementation_defined.md I14
  'stuck'; R69, R241; log 5). Safe: the model takes no step where the spec gives the engine none. -/
  | engineHeld
deriving DecidableEq, Repr

/-- Why an instruction has no meaning. -/
inductive Refusal where
  /-- Raised by an arm of `exec` whose instruction has no meaning yet; no arm of this model does. Safe. -/
  | notModelled (mnemonic : String)
deriving DecidableEq, Repr

/-- The state after reset (R37), with nothing offered and nothing scheduled by the host (log 3). -/
def State.reset : State where
  mode := .idle
  profile := .standard
  emitIdx := false
  acc := 0#18
  held := 0#5
  inCount := 0#32
  outCount := 0#32
  errCode := 0#8
  errCmdLo := 0#32
  errCmdHi := 0#32
  errPos := 0#32
  fifo := []
  irqEn := 0#2
  irqPend := 0#2
  cmdPos := 0
  offered := []
  edges := []

end Sys2Proof.Machine
end

