-- ==== Sys2Proof/Machine/Operands.lean ====
section
/-! DEFINITION. What the commands take their operands through: the profile table (spec 10_state.md R24, R25),
the symbol table in both directions (41_lut.md R121 to R123), and the codes of modes, tags and errors. -/

namespace Sys2Proof.Machine

/-- `mask(n) = 2^n - 1` (00_scope.md R8). -/
def mask (n : Nat) : Nat :=
  2 ^ n - 1

/-- symbol_count of a profile (R24). -/
def symbolCount : Profile → Nat
  | .tiny => 64
  | .small => 128
  | .standard => 256
  | .large => 1024

/-- chunk_bits of a profile (R24). -/
def chunkBits : Profile → Nat
  | .tiny => 6
  | .small => 7
  | .standard => 8
  | .large => 10

/-- The profile a write to CONFIG.PROFILE stores: codes above 3 fall back to Standard (R25). -/
def profileOfCode (c : BitVec 4) : Profile :=
  if c = 0#4 then .tiny
  else if c = 1#4 then .small
  else if c = 3#4 then .large
  else .standard

/-- SYMTAB(p, i), the forward read; applied only for i below symbol_count (R121, R143; log 2). -/
def symtab (p : Profile) (i : Nat) : Word32 :=
  Config.symbolCode p (BitVec.ofNat 32 i)

/-- The search of R122 in any table: the index below `count` that holds `sym`, if one does. -/
def reverseSearch (table : Nat → Word32) (count : Nat) (sym : Word32) : Option Nat :=
  (List.range count).find? (fun i => table i == sym)

/-- `RevLookup(p, s)`: `some i` is a hit on index i, `none` a miss (R122). -/
def revLookup (p : Profile) (sym : Word32) : Option Nat :=
  reverseSearch (symtab p) (symbolCount p) sym

/-- The canonical fill BASE(p) + i, modulo 2^32 (R29, R123). The model does not choose it (log 2). -/
def canonicalFill (base : Word32) (i : Nat) : Word32 :=
  base + BitVec.ofNat 32 i

/-- The value of MODE (R22). -/
def Mode.code : Mode → BitVec 2
  | .idle => 0#2
  | .pack => 1#2
  | .unpack => 2#2
  | .error => 3#2

/-- The value of a tag on `res_tag` (R33). -/
def Tag.code : Tag → BitVec 3
  | .sym => 0#3
  | .idx => 1#3
  | .byte => 2#3
  | .lut => 3#3
  | .jobEnd => 4#3
  | .err => 5#3
  | .aborted => 6#3
  | .lutMiss => 7#3

/-- The code of an error (60_exceptions.md R201). -/
def ErrorKind.code : ErrorKind → BitVec 8
  | .unknownSymbol => 0x01#8
  | .indexRange => 0x02#8
  | .illegalCmd => 0x03#8
  | .sequenceError => 0x04#8
  | .illegalCsr => 0x05#8

end Sys2Proof.Machine
end

