-- ==== Sys2Proof/Machine/Flags.lean ====
section
/-! DEFINITION. The block's status flags (spec 10_state.md R35): the interrupt bits and the `irq` line (R34,
60_exceptions.md R212), and the acceptance condition (20_memory.md R52). -/

namespace Sys2Proof.Machine

/-- The ERR bit of IRQ_EN and IRQ_PEND (R34). -/
def irqErr : BitVec 2 := 0b01#2

/-- The END bit of IRQ_EN and IRQ_PEND (R34). -/
def irqEnd : BitVec 2 := 0b10#2

/-- IRQ_PEND with the bits of `m` set (R104, R206). -/
def raiseIrq (m pend : BitVec 2) : BitVec 2 :=
  pend ||| m

/-- IRQ_PEND with the bits of `m` cleared: write 1 to clear (R190). -/
def clearIrq (m pend : BitVec 2) : BitVec 2 :=
  pend &&& ~~~m

/-- The level output `irq` (R34, R212). -/
def State.irq (s : State) : Bool :=
  s.irqPend &&& s.irqEn != 0#2

/-- OUT_DEPTH (R7; log 1). -/
def outDepth : Nat :=
  Config.depthAboveTwo.val + 2

/-- The number of items in the result FIFO (R33). -/
def State.fifoLevel (s : State) : Nat :=
  s.fifo.length

/-- At least 2 FIFO entries are free: STATUS.CMD_READY, which ignores reset (R52, R186). -/
def State.hasRoom (s : State) : Bool :=
  match outDepth - s.fifoLevel with
  | 0 => false
  | 1 => false
  | _ + 2 => true

end Sys2Proof.Machine
end

