-- ==== Sys2Proof/Machine/Ops.lean ====
section
/-! DEFINITION. The operations the commands share: pushing a result item, emitting a chunk or a byte, the
regrouping loop on the BitCursor, opening and leaving a job, error entry and the way back out of ERROR. -/

namespace Sys2Proof.Machine

/-- `Push(tag, data)`: append at the tail of the result FIFO (spec 00_scope.md R9, 10_state.md R33). -/
def State.push (s : State) (tag : Tag) (data : Word32) : State :=
  { s with fifo := s.fifo ++ [⟨tag, data⟩] }

/-- Error entry `raise E(w)` (60_exceptions.md R206): the record of the error, MODE, IRQ_PEND.ERR and the ERR
item. Nothing else is written. -/
def raiseError (e : ErrorKind) (w : CmdWord) (s : State) : State :=
  ({ s with
      errCode := e.code
      errCmdLo := w.extractLsb' 0 32
      errCmdHi := w.extractLsb' 32 32
      errPos := s.inCount
      mode := .error
      irqPend := raiseIrq irqErr s.irqPend }).push .err (e.code.setWidth 32)

/-- MODE <- IDLE and the cursor cleared: how FLUSH and ABORT leave a job, and how ABORT returns from ERROR
(40_control.md R104, R105; 60_exceptions.md R213). -/
def State.toIdle (s : State) : State :=
  { s with mode := .idle, acc := 0#18, held := 0#5 }

/-- A new job in mode `m`, from IDLE or as the return from ERROR (R102, R103; R213). -/
def State.openJob (s : State) (m : Mode) : State :=
  { s with mode := m, acc := 0#18, held := 0#5, inCount := 0#32, outCount := 0#32 }

/-- What the regrouping loop leaves: the chunks it emitted, first first, and the cursor. -/
structure Drained where
  chunks : List Nat
  acc : Nat
  held : Nat
deriving DecidableEq, Repr

/-- The loop of PUSH_BYTE (R141, `width` = cb) and of UnpackIndex (R165, `width` = 8): while at least `width`
bits are held, emit the top `width` of them and mask them away. `fuel` bounds the turns; the held count is
always enough (R142, R162), since every turn takes `width` > 0 bits. -/
def drain (width : Nat) : (fuel a h : Nat) → Drained
  | 0, a, h => ⟨[], a, h⟩
  | fuel + 1, a, h =>
    if width ≤ h then
      let rest := drain width fuel (a &&& mask (h - width)) (h - width)
      { rest with chunks := ((a >>> (h - width)) &&& mask width) :: rest.chunks }
    else ⟨[], a, h⟩

/-- ACC and HELD take the cursor the loop left, each kept to its width (R26, R27; log 10). -/
def State.setCursor (s : State) (d : Drained) : State :=
  { s with acc := BitVec.ofNat 18 d.acc, held := BitVec.ofNat 5 d.held }

/-- OUT_COUNT + 1, modulo 2^32 (R31). -/
def State.countOut (s : State) : State :=
  { s with outCount := s.outCount + 1#32 }

/-- IN_COUNT + 1, modulo 2^32 (R31). -/
def State.countIn (s : State) : State :=
  { s with inCount := s.inCount + 1#32 }

/-- `Emit(i)`: one chunk index of a pack job, as a symbol or raw (42_pack.md R140). -/
def State.emitIndex (s : State) (i : Nat) : State :=
  if s.emitIdx then (s.push .idx (BitVec.ofNat 32 i)).countOut
  else (s.push .sym (symtab s.profile i)).countOut

/-- `EmitByte(v)`: one byte of an unpack job (43_unpack.md R160). -/
def State.emitByte (s : State) (v : Nat) : State :=
  (s.push .byte (BitVec.ofNat 32 v)).countOut

end Sys2Proof.Machine
end

