-- ==== Sys2Proof/Machine/Pack.lean ====
section
/-! DEFINITION. The packer (spec 42_pack.md): PUSH_BYTE and the pack half of FLUSH. -/

namespace Sys2Proof.Machine

/-- The body of PUSH_BYTE in a pack job (R141). -/
def packByte (b : Byte) (s : State) : State :=
  let d := drain (chunkBits s.profile) (s.held.toNat + 8) (s.acc.toNat <<< 8 ||| b.toNat) (s.held.toNat + 8)
  ((d.chunks.foldl State.emitIndex s).setCursor d).countIn

/-- `PackFinal()`: the remaining bits high, zero pad bits low (R144, R145; 90_conflicts.md C2; log 10). -/
def packFinal (s : State) : State :=
  if s.held = 0#5 then s
  else s.emitIndex ((s.acc.toNat <<< (chunkBits s.profile - s.held.toNat)) &&& mask (chunkBits s.profile))

/-- PUSH_BYTE b (R141; discard in ERROR, 40_control.md R100). -/
def execPushByte (b : Byte) (s : State) : Host.Outcome State Fault Refusal :=
  match s.mode with
  | .error => .next s
  | .pack => .next (packByte b s)
  | .idle => .next (raiseError .sequenceError (encode (.pushByte b)) s)
  | .unpack => .next (raiseError .sequenceError (encode (.pushByte b)) s)

end Sys2Proof.Machine
end

