-- ==== Sys2Proof/Machine/Unpack.lean ====
section
/-! DEFINITION. The unpacker (spec 43_unpack.md): PUSH_SYM, PUSH_IDX and the unpack half of FLUSH. -/

namespace Sys2Proof.Machine

/-- `UnpackIndex(x)` (R165). -/
def unpackIndex (x : Nat) (s : State) : State :=
  let cb := chunkBits s.profile
  let d := drain 8 (s.held.toNat + cb) (s.acc.toNat <<< cb ||| x) (s.held.toNat + cb)
  (d.chunks.foldl State.emitByte s).setCursor d

/-- `UnpackFinal()` pushes nothing and reads neither ACC nor HELD; the bits are discarded unchecked (R167). -/
def unpackFinal (s : State) : State := s

/-- PUSH_SYM s (R163; discard in ERROR, 40_control.md R100). -/
def execPushSym (sym : Word32) (s : State) : Host.Outcome State Fault Refusal :=
  match s.mode with
  | .error => .next s
  | .unpack =>
    .next (match revLookup s.profile sym with
      | none => raiseError .unknownSymbol (encode (.pushSym sym)) s
      | some x => (unpackIndex x s).countIn)
  | .idle => .next (raiseError .sequenceError (encode (.pushSym sym)) s)
  | .pack => .next (raiseError .sequenceError (encode (.pushSym sym)) s)

/-- PUSH_IDX x, range-checked and never truncated (R164; discard in ERROR, 40_control.md R100). -/
def execPushIdx (x : Word32) (s : State) : Host.Outcome State Fault Refusal :=
  match s.mode with
  | .error => .next s
  | .unpack =>
    .next (if symbolCount s.profile ≤ x.toNat then raiseError .indexRange (encode (.pushIdx x)) s
      else (unpackIndex x.toNat s).countIn)
  | .idle => .next (raiseError .sequenceError (encode (.pushIdx x)) s)
  | .pack => .next (raiseError .sequenceError (encode (.pushIdx x)) s)

end Sys2Proof.Machine
end

