-- ==== Sys2Proof/Machine/Control.lean ====
section
/-! DEFINITION. NOP and the job-control commands (spec 40_control.md R102 to R106). -/

namespace Sys2Proof.Machine

/-- NOP does nothing, in every mode (R106). -/
def execNop (s : State) : Host.Outcome State Fault Refusal :=
  .next s

/-- START_PACK (R102). -/
def execStartPack (s : State) : Host.Outcome State Fault Refusal :=
  match s.mode with
  | .idle => .next (s.openJob .pack)
  | .error => .next (s.openJob .pack)
  | .pack => .next (raiseError .sequenceError (encode .startPack) s)
  | .unpack => .next (raiseError .sequenceError (encode .startPack) s)

/-- START_UNPACK (R103). -/
def execStartUnpack (s : State) : Host.Outcome State Fault Refusal :=
  match s.mode with
  | .idle => .next (s.openJob .unpack)
  | .error => .next (s.openJob .unpack)
  | .pack => .next (raiseError .sequenceError (encode .startUnpack) s)
  | .unpack => .next (raiseError .sequenceError (encode .startUnpack) s)

/-- The end of a job that FLUSH shares between both kinds: the END item with OUT_COUNT, IRQ_PEND.END, IDLE and
a clear cursor (R104). -/
def finishJob (s : State) : State :=
  let t := s.push .jobEnd s.outCount
  ({ t with irqPend := raiseIrq irqEnd t.irqPend }).toIdle

/-- FLUSH (R104; discard in ERROR, R100). -/
def execFlush (s : State) : Host.Outcome State Fault Refusal :=
  match s.mode with
  | .error => .next s
  | .idle => .next (raiseError .sequenceError (encode .flush) s)
  | .pack => .next (finishJob (packFinal s))
  | .unpack => .next (finishJob (unpackFinal s))

/-- ABORT (R105): an ABORTED item if a job is open; IDLE and a clear cursor in every mode. -/
def execAbort (s : State) : Host.Outcome State Fault Refusal :=
  match s.mode with
  | .idle => .next s.toIdle
  | .error => .next s.toIdle
  | .pack => .next (s.push .aborted s.outCount).toIdle
  | .unpack => .next (s.push .aborted s.outCount).toIdle

end Sys2Proof.Machine
end

