-- ==== Sys2Proof/Machine/Csr.lean ====
section
/-! DEFINITION. The control and status registers (spec 44_csr.md): the read port's value (R181 to R189) and
WRCSR (R190). -/

namespace Sys2Proof.Machine

/-- CONFIG (R185). -/
def State.configWord (s : State) : Word32 :=
  0#27 ++ (BitVec.ofBool s.emitIdx) ++ s.profile.code

/-- STATUS (R186). -/
def State.statusWord (s : State) : Word32 :=
  0#7 ++ BitVec.ofBool s.hasRoom ++ 0#3 ++ BitVec.ofNat 5 s.fifoLevel ++ 0#3 ++ s.held ++ 0#6 ++ s.mode.code

/-- PROFILE_INFO (R189). -/
def profileInfoWord (p : Profile) : Word32 :=
  0#5 ++ BitVec.ofNat 11 (symbolCount p) ++ 0#12 ++ BitVec.ofNat 4 (chunkBits p)

/-- The value of an implemented CSR (R183). -/
def State.csrValue (s : State) : CsrName → Word32
  | .id => 0x454D4301#32
  | .config => s.configWord
  | .status => s.statusWord
  | .acc => s.acc.setWidth 32
  | .inCount => s.inCount
  | .outCount => s.outCount
  | .errCode => s.errCode.setWidth 32
  | .errCmdLo => s.errCmdLo
  | .errCmdHi => s.errCmdHi
  | .errPos => s.errPos
  | .irqEn => s.irqEn.setWidth 32
  | .irqPend => s.irqPend.setWidth 32
  | .profileInfo => profileInfoWord s.profile

/-- `CsrRead(a)`, the combinational value of `csr_rdata` (R181); unimplemented addresses read 0 (R182). -/
def State.csrRead (s : State) (a : CsrAddr) : Word32 :=
  match CsrName.ofAddress a with
  | some c => s.csrValue c
  | none => 0#32

/-- CONFIG <- v: PROFILE with its fallback and EMIT_IDX; v[31:5] is ignored (R190, 10_state.md R25). -/
def State.writeConfig (s : State) (v : Word32) : State :=
  { s with profile := profileOfCode (v.extractLsb' 0 4), emitIdx := v.getLsbD 4 }

/-- The write of WRCSR to the CSR its address names, if it names one (R190). `w` is the command word. -/
def writeCsr (c : Option CsrName) (v : Word32) (w : CmdWord) (s : State) : State :=
  match c with
  | some .config =>
    match s.mode with
    | .idle => s.writeConfig v
    | .error => s.writeConfig v
    | .pack => raiseError .sequenceError w s
    | .unpack => raiseError .sequenceError w s
  | some .irqEn => { s with irqEn := v.extractLsb' 0 2 }
  | some .irqPend => { s with irqPend := clearIrq (v.extractLsb' 0 2) s.irqPend }
  | some .id => raiseError .illegalCsr w s
  | some .status => raiseError .illegalCsr w s
  | some .acc => raiseError .illegalCsr w s
  | some .inCount => raiseError .illegalCsr w s
  | some .outCount => raiseError .illegalCsr w s
  | some .errCode => raiseError .illegalCsr w s
  | some .errCmdLo => raiseError .illegalCsr w s
  | some .errCmdHi => raiseError .illegalCsr w s
  | some .errPos => raiseError .illegalCsr w s
  | some .profileInfo => raiseError .illegalCsr w s
  | none => raiseError .illegalCsr w s

/-- WRCSR a, v (R190). -/
def execWrcsr (a : CsrAddr) (v : Word32) (s : State) : Host.Outcome State Fault Refusal :=
  .next (writeCsr (CsrName.ofAddress a) v (encode (.wrcsr a v)) s)

end Sys2Proof.Machine
end

