-- ==== Sys2Proof/Machine/Lut.lean ====
section
/-! DEFINITION. The table queries (spec 41_lut.md R124, R125): one item in every mode, never an error. -/

namespace Sys2Proof.Machine

/-- LUT_FWD x (R124). -/
def execLutFwd (x : Word32) (s : State) : Host.Outcome State Fault Refusal :=
  .next (if x.toNat < symbolCount s.profile then s.push .lut (symtab s.profile x.toNat)
    else s.push .lutMiss x)

/-- The answer to LUT_REV: the index on a hit, the operand unchanged on a miss (R125). -/
def lutRevAnswer (p : Profile) (sym : Word32) : Item :=
  match revLookup p sym with
  | some i => ⟨.lut, BitVec.ofNat 32 i⟩
  | none => ⟨.lutMiss, sym⟩

/-- LUT_REV s (R125). -/
def execLutRev (sym : Word32) (s : State) : Host.Outcome State Fault Refusal :=
  .next (s.push (lutRevAnswer s.profile sym).tag (lutRevAnswer s.profile sym).data)

end Sys2Proof.Machine
end

