-- ==== Sys2Proof/Machine/Dispatch.lean ====
section
/-! DEFINITION. The dispatch of spec 40_control.md R100: one arm per command, no wildcard. -/

namespace Sys2Proof.Machine

def exec (i : Instr) (s : State) : Host.Outcome State Fault Refusal :=
  match i with
  | .nop => Sys2Proof.Machine.execNop s
  | .startPack => Sys2Proof.Machine.execStartPack s
  | .startUnpack => Sys2Proof.Machine.execStartUnpack s
  | .flush => Sys2Proof.Machine.execFlush s
  | .abort => Sys2Proof.Machine.execAbort s
  | .pushByte b => Sys2Proof.Machine.execPushByte b s
  | .pushSym sym => Sys2Proof.Machine.execPushSym sym s
  | .pushIdx x => Sys2Proof.Machine.execPushIdx x s
  | .lutFwd x => Sys2Proof.Machine.execLutFwd x s
  | .lutRev sym => Sys2Proof.Machine.execLutRev sym s
  | .wrcsr a v => Sys2Proof.Machine.execWrcsr a v s

end Sys2Proof.Machine
end

