-- ==== Sys2Proof/Machine/Execute.lean ====
section
/-! DEFINITION. `Execute(w)`: what the engine does with an accepted word (spec 40_control.md R100). -/

namespace Sys2Proof.Machine

/-- `Execute(w)` (R100): an illegal word raises ILLEGAL_CMD in every mode (30_encoding.md R84); a legal one is
its command. The discard in ERROR stands in the meanings it concerns (60_exceptions.md R211). -/
def execute (w : CmdWord) (s : State) : Host.Outcome State Fault Refusal :=
  match decode w with
  | .ok i => exec i s
  | .error _ => .next (raiseError .illegalCmd w s)

end Sys2Proof.Machine
end

