-- ==== Sys2Proof/Machine/Port.lean ====
section
/-! DEFINITION. The ports at one rising edge of `clk` (spec 20_memory.md R51 to R55, 70_reset_and_hazards.md
R230): which word is accepted, which item is popped, what reset does, when the engine is held for good. -/

namespace Sys2Proof.Machine

/-- The edge after the host's schedule has run out: out of reset, offering what it has, popping nothing (log 4). -/
def quietEdge : HostEdge :=
  ⟨true, true, false⟩

/-- The host's pins at the coming edge. -/
def State.currentEdge (s : State) : HostEdge :=
  match s.edges with
  | [] => quietEdge
  | e :: _ => e

/-- `cmd_ready` (R52). -/
def State.cmdReady (s : State) : Bool :=
  s.currentEdge.rstN && s.hasRoom

/-- `cmd_valid` with `cmd_data`: the word on the command port at the coming edge, if one is offered (R51). -/
def State.cmdOnPort (s : State) : Option CmdWord :=
  if s.currentEdge.cmdValid then s.offered.head? else none

/-- The word accepted at the coming edge: offered and `cmd_ready = 1` (R51). -/
def State.acceptedWord (s : State) : Option CmdWord :=
  if s.cmdReady then s.cmdOnPort else none

/-- The item on the result port; present exactly when the FIFO is not empty and the block is not in reset
(R53, R230). -/
def State.resultOnPort (s : State) : Option Item :=
  if s.currentEdge.rstN then s.fifo.head? else none

/-- `res_valid` (R53). -/
def State.resValid (s : State) : Bool :=
  s.resultOnPort.isSome

/-- `res_tag`, the head item's tag (R53, 10_state.md R33); no value while `res_valid = 0` (log 16). -/
def State.resTag (s : State) : Option (BitVec 3) :=
  s.resultOnPort.map (fun x => x.tag.code)

/-- `res_data`, the head item's data (R53); no value while `res_valid = 0` (log 16). -/
def State.resData (s : State) : Option Word32 :=
  s.resultOnPort.map Item.data

/-- The item that leaves at the coming edge: `res_valid = 1` and `res_ready = 1` (R53). -/
def State.poppedItem (s : State) : Option Item :=
  if s.currentEdge.resReady then s.resultOnPort else none

/-- `csr_rdata` for `csr_raddr = a` in the cycle before the coming edge (R54, R64). -/
def State.csrRdata (s : State) (a : CsrAddr) : Word32 :=
  s.csrRead a

/-- The FIFO of `t` without the item that leaves at the edge after `s`. The pop takes the head as it was before
the edge, so an item pushed at the edge stays (R53). -/
def State.dropPopped (s t : State) : List Item :=
  if s.poppedItem.isSome then t.fifo.tail else t.fifo

/-- The edge at which the command at the head of the queue was accepted: `t` is what the command made of `s`;
the popped item leaves, the word leaves the port, the position advances by 1 (R21, R51, R53). -/
def State.afterAccept (s t : State) : State :=
  { t with
    fifo := s.dropPopped t
    cmdPos := t.cmdPos + 1
    offered := t.offered.tail
    edges := t.edges.tail }

/-- An edge at which no command is accepted: only a pop can change the block (R52, R221). -/
def State.afterNoAccept (s : State) : State :=
  { s with fifo := s.dropPopped s, edges := s.edges.tail }

/-- An edge with `rst_n = 0` (R230): every element takes its reset value, the FIFO is emptied, nothing is
accepted or popped. What the host has queued is the host's and stays (log 11). -/
def State.afterReset (s : State) : State :=
  { State.reset with offered := s.offered, edges := s.edges.tail }

/-- A word is offered, the FIFO has no room, and no further edge is scheduled: the hang of R69 and R241 (log 5). -/
def State.heldForGood (s : State) : Bool :=
  s.edges.isEmpty && !s.offered.isEmpty && !s.hasRoom

/-- The words of the host's queue with `w` in the place of the next one. -/
def replaceHead (w : CmdWord) (q : List CmdWord) : List CmdWord :=
  w :: q.tail

/-- The schedule with the coming edge out of reset and `cmd_valid = 1`. -/
def offeringNow (s : State) : List HostEdge :=
  { s.currentEdge with rstN := true, cmdValid := true } :: s.edges.tail

end Sys2Proof.Machine
end

