-- ==== Sys2Proof/Machine/Step.lean ====
section
/-! DEFINITION. One step: one rising edge of `clk` (spec 20_memory.md R51, R63; log 6). -/

namespace Sys2Proof.Machine

/-- One step. In reset, every element takes its reset value (R230). Otherwise an accepted word is executed as one
atomic step (R51, R63, R100); without one the engine waits (R52, R221), and where it could wait only for ever it
stops (R241, I14). -/
def step (s : State) : Host.Outcome State Fault Refusal :=
  match s.currentEdge.rstN with
  | false => .next s.afterReset
  | true =>
    match s.acceptedWord with
    | some w =>
      match execute w s with
      | .next t => .next (s.afterAccept t)
      | .fault r => .fault r
      | .refused r => .refused r
    | none => if s.heldForGood then .fault .engineHeld else .next s.afterNoAccept

/-- `s` with the word on the command port at the coming edge, so that the very next step accepts and runs it, if
the FIFO has room (log 9). The command word has 64 bits, numbered as the table numbers them. -/
def State.withFetchWord (s : State) (nbits w : Nat) : State :=
  { s with
    offered := replaceHead (BitVec.ofNat 64 (w % 2 ^ nbits)) s.offered
    edges := offeringNow s }

end Sys2Proof.Machine
end

