-- ==== Sys2Proof/Machine/Assembler.lean ====
section
/-! DEFINITION. The text of the assembler (spec 30_encoding.md R86, R87): one line of text to an `AsmLine`.
What the rules leave open of the text's form is settled in log 12. -/

namespace Sys2Proof.Machine

/-- Blanks between the words of a line (log 12). -/
def isBlank (c : Char) : Bool :=
  c == ' ' || c == '\t'

/-- The text without blanks at either side. -/
def trimBlanks (l : List Char) : List Char :=
  ((l.dropWhile isBlank).reverse.dropWhile isBlank).reverse

/-- A `;` begins a comment (R86). -/
def withoutComment (l : List Char) : List Char :=
  l.takeWhile (fun c => c != ';')

/-- The operands of a line, separated by commas (R86); no operand at all for an empty text. -/
def splitOperands : List Char → List (List Char)
  | [] => [[]]
  | c :: cs =>
    if c == ',' then [] :: splitOperands cs
    else match splitOperands cs with
      | [] => [[c]]
      | o :: os => (c :: o) :: os

/-- The value of a digit in a base up to 16. -/
def digitValue (c : Char) : Option Nat :=
  if '0' ≤ c ∧ c ≤ '9' then some (c.toNat - '0'.toNat)
  else if 'a' ≤ c ∧ c ≤ 'f' then some (c.toNat - 'a'.toNat + 10)
  else if 'A' ≤ c ∧ c ≤ 'F' then some (c.toNat - 'A'.toNat + 10)
  else none

/-- The digits of a literal read in base `b`, onto the value read so far. -/
def readDigits (b : Nat) : Nat → List Char → Option Nat
  | v, [] => some v
  | v, c :: cs =>
    match digitValue c with
    | some d => if d < b then readDigits b (b * v + d) cs else none
    | none => none

/-- A numeric literal: decimal, or hexadecimal with the prefix 0x (R86). -/
def readNumber : List Char → Option Nat
  | '0' :: 'x' :: d :: ds => readDigits 16 0 (d :: ds)
  | d :: ds => readDigits 10 0 (d :: ds)
  | [] => none

/-- A CSR name of R183. -/
def readCsrName (o : String) : Option CsrName :=
  match o with
  | "ID" => some .id
  | "CONFIG" => some .config
  | "STATUS" => some .status
  | "ACC" => some .acc
  | "IN_COUNT" => some .inCount
  | "OUT_COUNT" => some .outCount
  | "ERR_CODE" => some .errCode
  | "ERR_CMDLO" => some .errCmdLo
  | "ERR_CMDHI" => some .errCmdHi
  | "ERR_POS" => some .errPos
  | "IRQ_EN" => some .irqEn
  | "IRQ_PEND" => some .irqPend
  | "PROFILE_INFO" => some .profileInfo
  | _ => none

/-- A CSR by name or by number (R86). -/
def readCsrRef (o : List Char) : Option CsrRef :=
  match readCsrName (String.ofList o) with
  | some c => some (.named c)
  | none => (readNumber o).map .number

/-- A profile by its name in R24 (R87). -/
def readProfile (o : List Char) : Option Profile :=
  match String.ofList o with
  | "Tiny" => some .tiny
  | "Small" => some .small
  | "Standard" => some .standard
  | "Large" => some .large
  | _ => none

/-- All operands as numbers; none if one of them is no number. -/
def readNumbers : List (List Char) → Option (List Nat)
  | [] => some []
  | o :: os =>
    match readNumber o, readNumbers os with
    | some v, some vs => some (v :: vs)
    | _, _ => none

/-- A line that takes no operand. -/
def lineOfNone (l : AsmLine) : List (List Char) → Option AsmLine
  | [] => some l
  | _ :: _ => none

/-- A line that takes one number. -/
def lineOfNumber (f : Nat → AsmLine) : List (List Char) → Option AsmLine
  | [o] => (readNumber o).map f
  | _ => none

/-- The line of a mnemonic and its operands (R86, R87). -/
def lineOf (m : String) (ops : List (List Char)) : Option AsmLine :=
  match m with
  | "NOP" => lineOfNone .nop ops
  | "START.PACK" => lineOfNone .startPack ops
  | "START.UNPACK" => lineOfNone .startUnpack ops
  | "FLUSH" => lineOfNone .flush ops
  | "ABORT" => lineOfNone .abort ops
  | "PUSH.B" => lineOfNumber .pushB ops
  | "PUSH.S" => lineOfNumber .pushS ops
  | "PUSH.I" => lineOfNumber .pushI ops
  | "LUT.F" => lineOfNumber .lutF ops
  | "LUT.R" => lineOfNumber .lutR ops
  | "WRCSR" =>
    match ops with
    | [a, v] =>
      match readCsrRef a, readNumber v with
      | some r, some n => some (.wrcsr r n)
      | _, _ => none
    | _ => none
  | "SETPROF" =>
    match ops with
    | [p] => (readProfile p).map .setProf
    | [p, x] => if String.ofList x = "IDX" then (readProfile p).map .setProfIdx else none
    | _ => none
  | "CLRIRQ" => lineOfNumber .clrIrq ops
  | "ENIRQ" => lineOfNumber .enIrq ops
  | "PACK" => (readNumbers ops).map .pack
  | "UNPACK" => (readNumbers ops).map .unpack
  | "UNPACK.I" => (readNumbers ops).map .unpackI
  | _ => none

/-- The operand texts of the rest of a line. -/
def operandTexts (rest : List Char) : List (List Char) :=
  match trimBlanks rest with
  | [] => []
  | c :: cs => (splitOperands (c :: cs)).map trimBlanks

/-- One line of assembler text with at least a mnemonic; none where the assembler refuses it (R86, R87). -/
def readLine (text : String) : Option AsmLine :=
  let code := trimBlanks (withoutComment text.toList)
  lineOf (String.ofList (code.takeWhile (fun c => !isBlank c)))
    (operandTexts (code.dropWhile (fun c => !isBlank c)))

/-- The words of one line of assembler text; a line of blanks and comment only has none (R86, log 12). -/
def assembleText (text : String) : Option (List CmdWord) :=
  if trimBlanks (withoutComment text.toList) = [] then some []
  else
    match readLine text with
    | some l => l.assemble
    | none => none

end Sys2Proof.Machine
end

