-- ==== Sys2Proof/Safety.lean ====
section
/-! DEFINITION. The terms the claims use: the invariants of the block (spec 10_state.md R28, R33), runs of
commands and of clock edges, jobs and their terminators (40_control.md R101), the bit order of the wire format
(20_memory.md R57, R58), and the spec's tables of errors and mode transitions (60_exceptions.md R204,
40_control.md R107), written here independently of the meanings. -/

namespace Sys2Proof.Machine

/-! ### Invariants -/

/-- ACC holds HELD valid low bits and HELD is below `bound` (R27, R28). -/
abbrev State.cursorBelow (s : State) (bound : Nat) : Prop :=
  s.held.toNat < bound ∧ s.acc.toNat < 2 ^ s.held.toNat

/-- The cursor invariants of R28. In ERROR the cursor meets the invariant of a mode and a profile that were current
before; all of those together are the bound 10, which is chunk_bits of Large. -/
def State.cursorOk (s : State) : Prop :=
  match s.mode with
  | .idle => s.acc = 0#18 ∧ s.held = 0#5
  | .pack => s.cursorBelow (chunkBits s.profile)
  | .unpack => s.cursorBelow 8
  | .error => s.cursorBelow 10

/-- The result FIFO holds at most OUT_DEPTH items (R33). -/
def State.fifoOk (s : State) : Prop :=
  s.fifo.length ≤ outDepth

/-- The invariant of the block: R28 and R33. -/
def State.inv (s : State) : Prop :=
  s.cursorOk ∧ s.fifoOk

/-! ### Runs -/

/-- The commands of a list in order, each one seeing the whole effect of the one before it (R63, R242). The result
FIFO only grows here: no item is popped. -/
def runInstrs : List Instr → State → Host.Outcome State Fault Refusal
  | [], s => .next s
  | i :: rest, s =>
    match exec i s with
    | .next t => runInstrs rest t
    | .fault r => .fault r
    | .refused r => .refused r

/-- The items the command at the coming edge pushes; none if no command is accepted (R63). -/
def pushedAtEdge (s : State) : List Item :=
  match s.acceptedWord with
  | none => []
  | some w =>
    match execute w s with
    | .next t => t.fifo.drop s.fifo.length
    | .fault _ => []
    | .refused _ => []

/-- The items pushed over the next `n` edges, in command order. -/
def pushedOver : Nat → State → List Item
  | 0, _ => []
  | n + 1, s =>
    pushedAtEdge s ++
      match step s with
      | .next t => pushedOver n t
      | .fault _ => []
      | .refused _ => []

/-- The result stream the host pops over the next `n` edges (R53, R63). -/
def poppedOver : Nat → State → List Item
  | 0, _ => []
  | n + 1, s =>
    s.poppedItem.toList ++
      match step s with
      | .next t => poppedOver n t
      | .fault _ => []
      | .refused _ => []

/-! ### Jobs -/

/-- A job is open (R22). -/
def Mode.jobOpen : Mode → Bool
  | .idle => false
  | .pack => true
  | .unpack => true
  | .error => false

/-- The tags that close a job (R101). -/
def Tag.isTerminator : Tag → Bool
  | .sym => false
  | .idx => false
  | .byte => false
  | .lut => false
  | .jobEnd => true
  | .err => true
  | .aborted => true
  | .lutMiss => false

/-- The tags OUT_COUNT counts: SYM, IDX, BYTE (R31). -/
def Tag.isData : Tag → Bool
  | .sym => true
  | .idx => true
  | .byte => true
  | .lut => false
  | .jobEnd => false
  | .err => false
  | .aborted => false
  | .lutMiss => false

/-- The commands IN_COUNT counts: PUSH_BYTE, PUSH_SYM, PUSH_IDX (R31). -/
def isDataCommand : Instr → Bool
  | .nop => false
  | .startPack => false
  | .startUnpack => false
  | .flush => false
  | .abort => false
  | .pushByte _ => true
  | .pushSym _ => true
  | .pushIdx _ => true
  | .lutFwd _ => false
  | .lutRev _ => false
  | .wrcsr _ _ => false

/-- The commands that are discarded in ERROR (R211). -/
def isDiscardedInError (i : Instr) : Bool :=
  isDataCommand i || i == .flush

/-- START_PACK or START_UNPACK. -/
def isStart (i : Instr) : Bool :=
  i == .startPack || i == .startUnpack

/-- The item a pack job emits for index i (R140). -/
def packItem (p : Profile) (emitIdx : Bool) (i : Nat) : Item :=
  if emitIdx then ⟨.idx, BitVec.ofNat 32 i⟩ else ⟨.sym, symtab p i⟩

/-- The item of a reconstructed byte (R160). -/
def byteItem (b : Byte) : Item :=
  ⟨.byte, b.setWidth 32⟩

/-- The END item of a job of n data items (R33, R146). -/
def endItem (n : Nat) : Item :=
  ⟨.jobEnd, BitVec.ofNat 32 n⟩

/-- The pack job of a byte sequence (R87 PACK). -/
def packJob (d : List Byte) : List Instr :=
  [.startPack] ++ d.map .pushByte ++ [.flush]

/-- The unpack job of raw indices (R87 UNPACK.I). -/
def unpackIdxJob (xs : List Word32) : List Instr :=
  [.startUnpack] ++ xs.map .pushIdx ++ [.flush]

/-- The command that gives an unpack job the index x: PUSH_SYM of its symbol, or PUSH_IDX of x itself (R161). -/
def unpackCommand (p : Profile) (bySymbol : Bool) (x : Nat) : Instr :=
  if bySymbol then .pushSym (symtab p x) else .pushIdx (BitVec.ofNat 32 x)

/-- The unpack job of symbols (R87 UNPACK). -/
def unpackSymJob (ss : List Word32) : List Instr :=
  [.startUnpack] ++ ss.map .pushSym ++ [.flush]

/-- The unpack job that takes back the items a pack job emitted: IDX items by PUSH_IDX, SYM items by PUSH_SYM
(R169). -/
def unpackJobOf (emitIdx : Bool) (items : List Item) : List Instr :=
  if emitIdx then unpackIdxJob (items.map Item.data) else unpackSymJob (items.map Item.data)

/-! ### The wire format -/

/-- The bits of a number of `n` bits, most significant first. -/
def bitsOf (n v : Nat) : List Bool :=
  (List.range n).map (fun k => v.testBit (n - 1 - k))

/-- The bitstream of bytes: bit k is bit 7 - (k mod 8) of byte floor(k/8) (R57). -/
def byteStream (d : List Byte) : List Bool :=
  d.flatMap (fun b => bitsOf 8 b.toNat)

/-- The bitstream of indices of `cb` bits, each most significant bit first (R58). -/
def indexStream (cb : Nat) (xs : List Nat) : List Bool :=
  xs.flatMap (bitsOf cb)

/-- The number a list of bits spells, most significant first. -/
def numberOf (bits : List Bool) : Nat :=
  bits.foldl (fun v b => 2 * v + b.toNat) 0

/-- Group j of `w` bits of a stream, as a number; bits past the stream's end are 0 (R57). -/
def groupAt (w : Nat) (stream : List Bool) (j : Nat) : Nat :=
  numberOf ((List.range w).map (fun k => stream.getD (j * w + k) false))

/-- The number of chunks of n bytes, ceil(8n / cb) (R146). -/
def chunkCount (cb n : Nat) : Nat :=
  (8 * n + cb - 1) / cb

/-- The chunk indices of a byte sequence (R57, R146). -/
def packedIndices (cb : Nat) (d : List Byte) : List Nat :=
  (List.range (chunkCount cb d.length)).map (groupAt cb (byteStream d))

/-- The bytes of an index sequence; the trailing (m*cb) mod 8 bits are discarded (R58, R168). -/
def unpackedBytes (cb : Nat) (xs : List Nat) : List Byte :=
  (List.range (cb * xs.length / 8)).map (fun k => BitVec.ofNat 8 (groupAt 8 (indexStream cb xs) k))

/-! ### The spec's tables -/

/-- The symbol is in the active profile's table (R122). -/
abbrev inTable (p : Profile) (sym : Word32) : Prop :=
  ∃ i, i < symbolCount p ∧ symtab p i = sym

/-- The error a legal command raises outside the discard, by the order of R204 (causes in R201). -/
def commandError (s : State) : Instr → Option ErrorKind
  | .nop => none
  | .startPack => if s.mode.jobOpen then some .sequenceError else none
  | .startUnpack => if s.mode.jobOpen then some .sequenceError else none
  | .flush => if s.mode = .idle then some .sequenceError else none
  | .abort => none
  | .pushByte _ => if s.mode ≠ .pack then some .sequenceError else none
  | .pushSym sym =>
    if s.mode ≠ .unpack then some .sequenceError
    else if inTable s.profile sym then none else some .unknownSymbol
  | .pushIdx x =>
    if s.mode ≠ .unpack then some .sequenceError
    else if x.toNat < symbolCount s.profile then none else some .indexRange
  | .lutFwd _ => none
  | .lutRev _ => none
  | .wrcsr a _ =>
    if a = 0x01#8 then (if s.mode.jobOpen then some .sequenceError else none)
    else if a = 0x0A#8 ∨ a = 0x0B#8 then none
    else some .illegalCsr

/-- The mode table of R107, a row per command: the mode after a legal command. -/
def modeAfter (s : State) : Instr → Mode
  | .nop => s.mode
  | .startPack => if s.mode.jobOpen then .error else .pack
  | .startUnpack => if s.mode.jobOpen then .error else .unpack
  | .flush =>
    match s.mode with
    | .idle => .error
    | .pack => .idle
    | .unpack => .idle
    | .error => .error
  | .abort => .idle
  | .pushByte _ => if s.mode = .pack then .pack else .error
  | .pushSym sym => if s.mode = .unpack ∧ inTable s.profile sym then .unpack else .error
  | .pushIdx x => if s.mode = .unpack ∧ x.toNat < symbolCount s.profile then .unpack else .error
  | .lutFwd _ => s.mode
  | .lutRev _ => s.mode
  | .wrcsr a _ =>
    if a = 0x01#8 then (if s.mode.jobOpen then .error else s.mode)
    else if a = 0x0A#8 ∨ a = 0x0B#8 then s.mode
    else .error

end Sys2Proof.Machine
end

