-- ==== Sys2Proof/Certificates/Slice0/Obligations.lean ====
section
/-! DEFINITION. The statements for the provers, from the numbered rules of the spec. -/

open Sys2Proof Sys2Proof.Machine

/-! ### Encoding (spec 30_encoding.md) -/

/-- Decoding the word of a command gives the command back, with every operand at every value (R80, R82, R83). -/
def Obligations.EncodedInstructionDecodesToItself : Prop :=
  ∀ i : Instr, decode (encode i) = .ok i

/-- A word that decodes is the word of the command it decodes to: no bit of a legal word is dropped (R80, R82, R84). -/
def Obligations.DecodedWordIsTheWordOfItsInstruction : Prop :=
  ∀ (w : CmdWord) (i : Instr), decode w = .ok i → encode i = w

/-- R84: exactly the words with `Legal(w)` spell a command, and every other word raises ILLEGAL_CMD in every mode. -/
def Obligations.ExactlyLegalWordsDecodeAndOthersRaiseIllegalCmd : Prop :=
  (∀ w : CmdWord, legal w = true ↔ ∃ i, decode w = .ok i) ∧
  (∀ (w : CmdWord) (s : State), legal w = false → execute w s = .next (raiseError .illegalCmd w s))

/-- R83: a word spells a command exactly when it matches one row's mask and match, no two rows match one word, and
the row that matches bears the mnemonic of the command decoded. -/
def Obligations.OpcodeMapRowsSpellTheCommandsWithoutOverlap : Prop :=
  (∀ w : CmdWord, legal w = true ↔ ∃ r ∈ opcodeTable, r.matchesWord w = true) ∧
  (∀ w : CmdWord, ∀ r₁ ∈ opcodeTable, ∀ r₂ ∈ opcodeTable,
    r₁.matchesWord w = true → r₂.matchesWord w = true → r₁ = r₂) ∧
  (∀ (w : CmdWord) (i : Instr), decode w = .ok i →
    ∃ r ∈ opcodeTable, r.mnemonic = i.mnemonic ∧ r.matchesWord w = true)

/-- Words written out from R80 and R86 decode to the commands they stand for, one or more of each family. -/
def Obligations.WordsOfTheManualDecodeAsWritten : Prop :=
  decode 0x0000000000000000#64 = .ok .nop ∧
  decode 0x0200000000000000#64 = .ok .startUnpack ∧
  decode 0x10000000000000FF#64 = .ok (.pushByte 0xFF#8) ∧
  decode 0x1100000000030048#64 = .ok (.pushSym 0x00030048#32) ∧
  decode 0x1200000000000030#64 = .ok (.pushIdx 48#32) ∧
  decode 0x20000000FFFFFFFF#64 = .ok (.lutFwd 0xFFFFFFFF#32) ∧
  decode 0x2100000000010069#64 = .ok (.lutRev 0x00010069#32) ∧
  decode 0x3001000000000013#64 = .ok (.wrcsr 0x01#8 0x13#32)

/-- R85: the reserved OPC ranges, a nonzero RSV, and a nonzero CSR outside WRCSR raise ILLEGAL_CMD; a WRCSR to any
address that is not writable is a legal word and raises ILLEGAL_CSR instead. -/
def Obligations.ReservedEncodingsRaiseIllegalCmdAndUnwritableCsrsDoNot : Prop :=
  (∀ (w : CmdWord) (s : State),
    (let o := (w.extractLsb' 56 8).toNat;
      (0x05 ≤ o ∧ o ≤ 0x0F) ∨ (0x13 ≤ o ∧ o ≤ 0x1F) ∨ (0x22 ≤ o ∧ o ≤ 0x2F) ∨ 0x31 ≤ o) →
    execute w s = .next (raiseError .illegalCmd w s)) ∧
  (∀ (w : CmdWord) (s : State), w.extractLsb' 32 16 ≠ 0#16 →
    execute w s = .next (raiseError .illegalCmd w s)) ∧
  (∀ (w : CmdWord) (s : State), w.extractLsb' 56 8 ≠ 0x30#8 → w.extractLsb' 48 8 ≠ 0#8 →
    execute w s = .next (raiseError .illegalCmd w s)) ∧
  (∀ (a : CsrAddr) (v : Word32) (s : State), a ≠ 0x01#8 → a ≠ 0x0A#8 → a ≠ 0x0B#8 →
    execute (encode (.wrcsr a v)) s = .next (raiseError .illegalCsr (encode (.wrcsr a v)) s))

/-- R86, line by line: the word each assembler line makes, the operands refused for being wider than their field, the
CSR names standing for the addresses of R183, and no line making an illegal word. -/
def Obligations.AssemblerMakesTheWordOfEachLineOrRefusesIt : Prop :=
  AsmLine.nop.assemble = some [0x0000000000000000#64] ∧
  AsmLine.startPack.assemble = some [0x0100000000000000#64] ∧
  AsmLine.startUnpack.assemble = some [0x0200000000000000#64] ∧
  AsmLine.flush.assemble = some [0x0300000000000000#64] ∧
  AsmLine.abort.assemble = some [0x0400000000000000#64] ∧
  (∀ b : Nat, (AsmLine.pushB b).assemble =
    if b ≤ 255 then some [0x1000000000000000#64 + BitVec.ofNat 64 b] else none) ∧
  (∀ v : Nat, (AsmLine.pushS v).assemble =
    if v < 2 ^ 32 then some [0x1100000000000000#64 + BitVec.ofNat 64 v] else none) ∧
  (∀ v : Nat, (AsmLine.pushI v).assemble =
    if v < 2 ^ 32 then some [0x1200000000000000#64 + BitVec.ofNat 64 v] else none) ∧
  (∀ v : Nat, (AsmLine.lutF v).assemble =
    if v < 2 ^ 32 then some [0x2000000000000000#64 + BitVec.ofNat 64 v] else none) ∧
  (∀ v : Nat, (AsmLine.lutR v).assemble =
    if v < 2 ^ 32 then some [0x2100000000000000#64 + BitVec.ofNat 64 v] else none) ∧
  (∀ a v : Nat, (AsmLine.wrcsr (.number a) v).assemble =
    if a ≤ 255 ∧ v < 2 ^ 32 then some [0x3000000000000000#64 + BitVec.ofNat 64 (a * 2 ^ 48 + v)] else none) ∧
  (∀ (c : CsrName) (v : Nat), (AsmLine.wrcsr (.named c) v).assemble =
    (AsmLine.wrcsr (.number (match c with
      | .id => 0x00 | .config => 0x01 | .status => 0x02 | .acc => 0x03 | .inCount => 0x04 | .outCount => 0x05
      | .errCode => 0x06 | .errCmdLo => 0x07 | .errCmdHi => 0x08 | .errPos => 0x09 | .irqEn => 0x0A
      | .irqPend => 0x0B | .profileInfo => 0x0C)) v).assemble) ∧
  (∀ (l : AsmLine) (ws : List CmdWord), l.assemble = some ws → ∀ w ∈ ws, legal w = true)

/-- R87: the words each pseudo-instruction expands to, with the profile codes of R24 by value; an operand wider than its
field is refused as in the lines of the expansion (R86). -/
def Obligations.PseudoInstructionsMakeTheWordsOfTheirExpansion : Prop :=
  (∀ p : Profile, (AsmLine.setProf p).assemble = some [match p with
    | .tiny => 0x3001000000000000#64
    | .small => 0x3001000000000001#64
    | .standard => 0x3001000000000002#64
    | .large => 0x3001000000000003#64]) ∧
  (∀ p : Profile, (AsmLine.setProfIdx p).assemble = some [match p with
    | .tiny => 0x3001000000000010#64
    | .small => 0x3001000000000011#64
    | .standard => 0x3001000000000012#64
    | .large => 0x3001000000000013#64]) ∧
  (∀ m : Nat, (AsmLine.clrIrq m).assemble =
    if m < 2 ^ 32 then some [0x300B000000000000#64 + BitVec.ofNat 64 m] else none) ∧
  (∀ m : Nat, (AsmLine.enIrq m).assemble =
    if m < 2 ^ 32 then some [0x300A000000000000#64 + BitVec.ofNat 64 m] else none) ∧
  (∀ bs : List Nat, (AsmLine.pack bs).assemble =
    if ∀ b ∈ bs, b ≤ 255 then
      some ([0x0100000000000000#64] ++ bs.map (fun b => 0x1000000000000000#64 + BitVec.ofNat 64 b) ++
        [0x0300000000000000#64])
    else none) ∧
  (∀ ss : List Nat, (AsmLine.unpack ss).assemble =
    if ∀ v ∈ ss, v < 2 ^ 32 then
      some ([0x0200000000000000#64] ++ ss.map (fun v => 0x1100000000000000#64 + BitVec.ofNat 64 v) ++
        [0x0300000000000000#64])
    else none) ∧
  (∀ xs : List Nat, (AsmLine.unpackI xs).assemble =
    if ∀ v ∈ xs, v < 2 ^ 32 then
      some ([0x0200000000000000#64] ++ xs.map (fun v => 0x1200000000000000#64 + BitVec.ofNat 64 v) ++
        [0x0300000000000000#64])
    else none)

/-! ### Job control (spec 40_control.md) -/

/-- R106: NOP is the all-zero word, changes nothing in any mode, and is still subject to the acceptance condition:
without room it stays offered. -/
def Obligations.NopChangesNothingAndWaitsForRoomLikeAnyCommand : Prop :=
  encode .nop = 0x0000000000000000#64 ∧
  (∀ s : State, exec .nop s = .next s) ∧
  (∀ (s t : State) (ws : List CmdWord), s.offered = encode .nop :: ws → s.currentEdge.rstN = true →
    s.hasRoom = false → step s = .next t → t.offered = encode .nop :: ws)

/-- R102: START_PACK opens a pack job from IDLE and from ERROR and raises SEQUENCE_ERROR while a job is open. -/
def Obligations.StartPackOpensPackJobUnlessOneIsOpen : Prop :=
  encode .startPack = 0x0100000000000000#64 ∧
  (∀ s : State, s.mode = .idle ∨ s.mode = .error → exec .startPack s =
    .next { s with mode := .pack, acc := 0#18, held := 0#5, inCount := 0#32, outCount := 0#32 }) ∧
  (∀ s : State, s.mode = .pack ∨ s.mode = .unpack → exec .startPack s =
    .next (raiseError .sequenceError 0x0100000000000000#64 s))

/-- R103: START_UNPACK opens an unpack job from IDLE and from ERROR and raises SEQUENCE_ERROR while a job is open. -/
def Obligations.StartUnpackOpensUnpackJobUnlessOneIsOpen : Prop :=
  encode .startUnpack = 0x0200000000000000#64 ∧
  (∀ s : State, s.mode = .idle ∨ s.mode = .error → exec .startUnpack s =
    .next { s with mode := .unpack, acc := 0#18, held := 0#5, inCount := 0#32, outCount := 0#32 }) ∧
  (∀ s : State, s.mode = .pack ∨ s.mode = .unpack → exec .startUnpack s =
    .next (raiseError .sequenceError 0x0200000000000000#64 s))

/-- R104 with R145 and R167: FLUSH in each mode. In a pack job the HELD remaining bits stand high in the final chunk
with zero pad bits below; in an unpack job they are dropped; END carries OUT_COUNT with the final chunk counted. -/
def Obligations.FlushEndsTheOpenJobAndPadsTheFinalChunk : Prop :=
  encode .flush = 0x0300000000000000#64 ∧
  (∀ s : State, s.mode = .pack → s.held = 0#5 → exec .flush s =
    .next { s with
      fifo := s.fifo ++ [⟨.jobEnd, s.outCount⟩]
      irqPend := s.irqPend ||| 0b10#2, mode := .idle, acc := 0#18, held := 0#5 }) ∧
  (∀ s : State, s.mode = .pack → s.cursorBelow (chunkBits s.profile) → s.held ≠ 0#5 →
    s.acc.toNat * 2 ^ (chunkBits s.profile - s.held.toNat) < symbolCount s.profile ∧
    exec .flush s =
      .next { s with
        fifo := s.fifo ++
          [packItem s.profile s.emitIdx (s.acc.toNat * 2 ^ (chunkBits s.profile - s.held.toNat)),
            ⟨.jobEnd, s.outCount + 1#32⟩]
        outCount := s.outCount + 1#32
        irqPend := s.irqPend ||| 0b10#2, mode := .idle, acc := 0#18, held := 0#5 }) ∧
  (∀ s : State, s.mode = .unpack → exec .flush s =
    .next { s with
      fifo := s.fifo ++ [⟨.jobEnd, s.outCount⟩]
      irqPend := s.irqPend ||| 0b10#2, mode := .idle, acc := 0#18, held := 0#5 }) ∧
  (∀ s : State, s.mode = .idle → exec .flush s =
    .next (raiseError .sequenceError 0x0300000000000000#64 s)) ∧
  (∀ s : State, s.mode = .error → exec .flush s = .next s)

/-- R105: ABORT leaves any job and ERROR for IDLE with a clear cursor, pushes ABORTED exactly if a job was open, and
never raises; in IDLE, where the cursor is clear by R28, it changes nothing. -/
def Obligations.AbortReturnsToIdleAndReportsAnOpenJob : Prop :=
  encode .abort = 0x0400000000000000#64 ∧
  (∀ s : State, s.mode = .pack ∨ s.mode = .unpack → exec .abort s =
    .next { s with
      fifo := s.fifo ++ [⟨.aborted, s.outCount⟩], mode := .idle, acc := 0#18, held := 0#5 }) ∧
  (∀ s : State, s.mode = .idle ∨ s.mode = .error → exec .abort s =
    .next { s with mode := .idle, acc := 0#18, held := 0#5 }) ∧
  (∀ s : State, s.mode = .idle → s.cursorOk → exec .abort s = .next s)

/-- R107: the mode after every accepted word, legal or not, is the one of the mode table. -/
def Obligations.ModeAfterEveryCommandIsThatOfTheModeTable : Prop :=
  ∀ (w : CmdWord) (s t : State), execute w s = .next t →
    (∀ i, decode w = .ok i → t.mode = modeAfter s i) ∧ (∀ r, decode w = .error r → t.mode = .error)

/-- R101: no command pushes more than 2 items, ABORT, the queries and an error entry at most 1, and NOP, a START and
a WRCSR that complete push none; nothing is ever taken out of the FIFO by a command. -/
def Obligations.EveryCommandPushesAtMostItsBoundOfItems : Prop :=
  ∀ (w : CmdWord) (s t : State), s.cursorOk → execute w s = .next t →
    ∃ new, t.fifo = s.fifo ++ new ∧ new.length ≤ 2 ∧
      (∀ e, t = raiseError e w s → new.length = 1) ∧
      (w = encode .abort → new.length ≤ 1) ∧
      (∀ x, w = encode (.lutFwd x) ∨ w = encode (.lutRev x) → new.length = 1) ∧
      (∀ i, decode w = .ok i → i = .nop ∨ isStart i = true ∨ (∃ a v, i = .wrcsr a v) →
        commandError s i = none → new = [])

/-- R101: while a job is open, a command either leaves it open and pushes no terminator, or closes it and pushes
exactly one terminator, as its last item: END of a FLUSH, ABORTED of an ABORT, or ERR of an error. -/
def Obligations.AnOpenJobEndsWithExactlyOneTerminator : Prop :=
  ∀ (w : CmdWord) (s t : State), s.mode.jobOpen = true → execute w s = .next t →
    ∃ new, t.fifo = s.fifo ++ new ∧
      ((t.mode = s.mode ∧ ∀ x ∈ new, x.tag.isTerminator = false) ∨
        (t.mode.jobOpen = false ∧ ∃ before last, new = before ++ [last] ∧
          (∀ x ∈ before, x.tag.isTerminator = false) ∧
          ((w = encode .flush ∧ t.mode = .idle ∧ last = ⟨.jobEnd, t.outCount⟩) ∨
            (w = encode .abort ∧ t.mode = .idle ∧ last = ⟨.aborted, t.outCount⟩) ∨
            (∃ e, t = raiseError e w s ∧ last = ⟨.err, e.code.setWidth 32⟩))))

/-! ### The symbol table (spec 41_lut.md) -/

/-- R29 and R122: the table is injective on the indices of each profile, and the reverse search hits exactly the index
that holds the symbol. -/
def Obligations.SymbolTableIsInjectiveAndReverseSearchInvertsIt : Prop :=
  (∀ (p : Profile) (i j : Nat), i < symbolCount p → j < symbolCount p → symtab p i = symtab p j → i = j) ∧
  (∀ (p : Profile) (sym : Word32) (i : Nat),
    revLookup p sym = some i ↔ i < symbolCount p ∧ symtab p i = sym)

/-- R123: under the canonical fill the reverse search is the modular distance from BASE. -/
def Obligations.ReverseSearchOfCanonicalFillIsModularDistance : Prop :=
  ∀ (base sym : Word32) (p : Profile),
    reverseSearch (canonicalFill base) (symbolCount p) sym =
      if (sym - base).toNat < symbolCount p then some (sym - base).toNat else none

/-- R124: LUT_FWD pushes the symbol of an index in range and LUT_MISS with the operand otherwise, in every mode. -/
def Obligations.LutFwdAnswersTheSymbolOrAMissInEveryMode : Prop :=
  (∀ x : Word32, encode (.lutFwd x) = 0x2000000000000000#64 ||| x.setWidth 64) ∧
  (∀ (x : Word32) (s : State), x.toNat < symbolCount s.profile → exec (.lutFwd x) s =
    .next { s with fifo := s.fifo ++ [⟨.lut, symtab s.profile x.toNat⟩] }) ∧
  (∀ (x : Word32) (s : State), symbolCount s.profile ≤ x.toNat → exec (.lutFwd x) s =
    .next { s with fifo := s.fifo ++ [⟨.lutMiss, x⟩] })

/-- R125: LUT_REV pushes the index of a symbol of the active table and LUT_MISS with the operand otherwise, in every
mode; an unknown symbol is never an error here. -/
def Obligations.LutRevAnswersTheIndexOrAMissInEveryMode : Prop :=
  (∀ sym : Word32, encode (.lutRev sym) = 0x2100000000000000#64 ||| sym.setWidth 64) ∧
  (∀ (i : Nat) (s : State), i < symbolCount s.profile → exec (.lutRev (symtab s.profile i)) s =
    .next { s with fifo := s.fifo ++ [⟨.lut, BitVec.ofNat 32 i⟩] }) ∧
  (∀ (sym : Word32) (s : State), ¬ inTable s.profile sym → exec (.lutRev sym) s =
    .next { s with fifo := s.fifo ++ [⟨.lutMiss, sym⟩] })

/-! ### The packer (spec 42_pack.md) -/

/-- R141 with R142: in a pack job PUSH_BYTE appends the byte to the held bits, emits floor((HELD + 8) / cb) chunks from
the top, and keeps the remaining low bits; elsewhere it raises, is discarded, or is no legal word. -/
def Obligations.PushByteEmitsTheTopChunksAndKeepsTheRest : Prop :=
  (∀ b : Byte, encode (.pushByte b) = 0x1000000000000000#64 ||| b.setWidth 64) ∧
  (∀ (b : Byte) (s : State), s.mode = .pack → s.cursorBelow (chunkBits s.profile) →
    let cb := chunkBits s.profile
    let v := s.acc.toNat * 2 ^ 8 + b.toNat
    let h := s.held.toNat + 8
    exec (.pushByte b) s =
      .next { s with
        fifo := s.fifo ++
          (List.range (h / cb)).map (fun j => packItem s.profile s.emitIdx (v / 2 ^ (h - (j + 1) * cb) % 2 ^ cb))
        outCount := s.outCount + BitVec.ofNat 32 (h / cb)
        acc := BitVec.ofNat 18 (v % 2 ^ (h % cb))
        held := BitVec.ofNat 5 (h % cb)
        inCount := s.inCount + 1#32 }) ∧
  (∀ (b : Byte) (s : State), s.mode = .idle ∨ s.mode = .unpack → exec (.pushByte b) s =
    .next (raiseError .sequenceError (encode (.pushByte b)) s)) ∧
  (∀ (b : Byte) (s : State), s.mode = .error → exec (.pushByte b) s = .next s) ∧
  (∀ (w : CmdWord) (s : State), w.extractLsb' 56 8 = 0x10#8 → w.extractLsb' 8 24 ≠ 0#24 →
    execute w s = .next (raiseError .illegalCmd w s))

/-- R142: after n bytes of a pack job HELD is 8n mod cb, ACC holds exactly the last HELD bits of the byte stream, and
one item has been emitted for each whole chunk. -/
def Obligations.CursorAfterBytesHoldsTheUnemittedTailOfTheStream : Prop :=
  ∀ (d : List Byte) (s : State), s.mode.jobOpen = false →
    ∃ t, runInstrs ([.startPack] ++ d.map .pushByte) s = .next t ∧ t.mode = .pack ∧
      t.held.toNat = 8 * d.length % chunkBits s.profile ∧
      t.acc.toNat = numberOf (byteStream d) % 2 ^ t.held.toNat ∧
      t.fifo = s.fifo ++ (List.range (8 * d.length / chunkBits s.profile)).map
        (fun j => packItem s.profile s.emitIdx (groupAt (chunkBits s.profile) (byteStream d) j))

/-- R57 with R146 and R140: a whole pack job pushes the ceil(8n/cb) chunks of the byte stream, most significant bit
first with the missing low bits of the last chunk 0, then END with their count modulo 2^32; and what else it leaves. -/
def Obligations.PackJobRegroupsTheByteStreamMostSignificantBitFirst : Prop :=
  ∀ (d : List Byte) (s : State), s.mode.jobOpen = false →
    let cb := chunkBits s.profile
    runInstrs (packJob d) s =
      .next { s with
        mode := .idle, acc := 0#18, held := 0#5
        inCount := BitVec.ofNat 32 d.length
        outCount := BitVec.ofNat 32 (chunkCount cb d.length)
        irqPend := s.irqPend ||| 0b10#2
        fifo := s.fifo ++ (packedIndices cb d).map (packItem s.profile s.emitIdx) ++
          [endItem (chunkCount cb d.length)] }

/-- R147: what a pack job pushes depends on PROFILE, EMIT_IDX and the bytes alone, whatever the rest of the state. -/
def Obligations.PackJobItemsDependOnlyOnConfigAndBytes : Prop :=
  ∀ (d : List Byte) (s₁ s₂ : State), s₁.mode.jobOpen = false → s₂.mode.jobOpen = false →
    s₁.profile = s₂.profile → s₁.emitIdx = s₂.emitIdx →
    ∃ items t₁ t₂, runInstrs (packJob d) s₁ = .next t₁ ∧ runInstrs (packJob d) s₂ = .next t₂ ∧
      t₁.fifo = s₁.fifo ++ items ∧ t₂.fifo = s₂.fifo ++ items

/-- R148: under Tiny, Small and Standard the items of a pack job determine its bytes, and under Large they do between
jobs whose lengths are both not 4 mod 5, or both 4 mod 5; under Large a job of n bytes with n mod 5 = 4, whose pad has 8
bits, and the job of those bytes and a zero byte push the same items. -/
def Obligations.PackingIsInjectiveExceptForLargeWithAnEightBitPad : Prop :=
  (∀ (d₁ d₂ : List Byte) (s t₁ t₂ : State), s.mode.jobOpen = false → s.profile ≠ .large →
    runInstrs (packJob d₁) s = .next t₁ → runInstrs (packJob d₂) s = .next t₂ → t₁.fifo = t₂.fifo → d₁ = d₂) ∧
  (∀ (d₁ d₂ : List Byte) (s t₁ t₂ : State), s.mode.jobOpen = false → s.profile = .large →
    (d₁.length % 5 = 4 ↔ d₂.length % 5 = 4) →
    runInstrs (packJob d₁) s = .next t₁ → runInstrs (packJob d₂) s = .next t₂ → t₁.fifo = t₂.fifo → d₁ = d₂) ∧
  (∀ (d : List Byte) (s : State), s.mode.jobOpen = false → s.profile = .large → d.length % 5 = 4 →
    ∃ t₁ t₂, runInstrs (packJob d) s = .next t₁ ∧ runInstrs (packJob (d ++ [0#8])) s = .next t₂ ∧
      t₁.fifo = t₂.fifo)

/-! ### The unpacker (spec 43_unpack.md) -/

/-- R164 with R165 and R162: in an unpack job PUSH_IDX appends an index in range to the held bits, emits
floor((HELD + cb) / 8) bytes from the top and keeps the rest; an index out of range raises INDEX_RANGE untruncated;
elsewhere it raises SEQUENCE_ERROR or is discarded. -/
def Obligations.PushIdxEmitsTheTopBytesAndKeepsTheRest : Prop :=
  (∀ x : Word32, encode (.pushIdx x) = 0x1200000000000000#64 ||| x.setWidth 64) ∧
  (∀ (x : Word32) (s : State), s.mode = .unpack → s.cursorBelow 8 → x.toNat < symbolCount s.profile →
    let cb := chunkBits s.profile
    let v := s.acc.toNat * 2 ^ cb + x.toNat
    let h := s.held.toNat + cb
    exec (.pushIdx x) s =
      .next { s with
        fifo := s.fifo ++
          (List.range (h / 8)).map (fun j => ⟨.byte, BitVec.ofNat 32 (v / 2 ^ (h - (j + 1) * 8) % 2 ^ 8)⟩)
        outCount := s.outCount + BitVec.ofNat 32 (h / 8)
        acc := BitVec.ofNat 18 (v % 2 ^ (h % 8))
        held := BitVec.ofNat 5 (h % 8)
        inCount := s.inCount + 1#32 }) ∧
  (∀ (x : Word32) (s : State), s.mode = .unpack → symbolCount s.profile ≤ x.toNat → exec (.pushIdx x) s =
    .next (raiseError .indexRange (encode (.pushIdx x)) s)) ∧
  (∀ (x : Word32) (s : State), s.mode = .idle ∨ s.mode = .pack → exec (.pushIdx x) s =
    .next (raiseError .sequenceError (encode (.pushIdx x)) s)) ∧
  (∀ (x : Word32) (s : State), s.mode = .error → exec (.pushIdx x) s = .next s)

/-- R163 with R161: in an unpack job PUSH_SYM of the symbol of index i does what PUSH_IDX of i does, byte for byte of
its effect; an unknown symbol raises UNKNOWN_SYMBOL; elsewhere it raises SEQUENCE_ERROR; in ERROR it and FLUSH are discarded. -/
def Obligations.PushSymUnpacksTheIndexOfAKnownSymbol : Prop :=
  (∀ sym : Word32, encode (.pushSym sym) = 0x1100000000000000#64 ||| sym.setWidth 64) ∧
  (∀ (i : Nat) (s : State), s.mode = .unpack → s.cursorBelow 8 → i < symbolCount s.profile →
    let cb := chunkBits s.profile
    let v := s.acc.toNat * 2 ^ cb + i
    let h := s.held.toNat + cb
    exec (.pushSym (symtab s.profile i)) s =
      .next { s with
        fifo := s.fifo ++
          (List.range (h / 8)).map (fun j => ⟨.byte, BitVec.ofNat 32 (v / 2 ^ (h - (j + 1) * 8) % 2 ^ 8)⟩)
        outCount := s.outCount + BitVec.ofNat 32 (h / 8)
        acc := BitVec.ofNat 18 (v % 2 ^ (h % 8))
        held := BitVec.ofNat 5 (h % 8)
        inCount := s.inCount + 1#32 }) ∧
  (∀ (sym : Word32) (s : State), s.mode = .unpack → ¬ inTable s.profile sym → exec (.pushSym sym) s =
    .next (raiseError .unknownSymbol (encode (.pushSym sym)) s)) ∧
  (∀ (sym : Word32) (s : State), s.mode = .idle ∨ s.mode = .pack → exec (.pushSym sym) s =
    .next (raiseError .sequenceError (encode (.pushSym sym)) s)) ∧
  (∀ (sym : Word32) (s : State), s.mode = .error → exec (.pushSym sym) s = .next s ∧ exec .flush s = .next s)

/-- R167: the unpack half of FLUSH reads neither ACC nor HELD, so nonzero leftover bits are accepted like zero ones,
it pushes nothing but the END item, raises nothing and clears both. -/
def Obligations.UnpackFlushIgnoresTheLeftoverBits : Prop :=
  ∀ (s : State) (a : BitVec 18) (h : BitVec 5), s.mode = .unpack →
    exec .flush { s with acc := a, held := h } = exec .flush s ∧
    ∃ t, exec .flush s = .next t ∧ t.fifo = s.fifo ++ [⟨.jobEnd, s.outCount⟩] ∧ t.mode = .idle ∧
      t.acc = 0#18 ∧ t.held = 0#5 ∧ t.errCode = s.errCode

/-- R58 and R168: a whole unpack job of m indices in range, each given by its symbol or raw, pushes the floor(m*cb/8)
bytes of the index stream, most significant bit first, the trailing bits discarded, then END; and what else it leaves. -/
def Obligations.UnpackJobRegroupsTheIndexStreamMostSignificantBitFirst : Prop :=
  ∀ (cs : List (Bool × Nat)) (s : State), s.mode.jobOpen = false → (∀ c ∈ cs, c.2 < symbolCount s.profile) →
    let cb := chunkBits s.profile
    runInstrs ([.startUnpack] ++ cs.map (fun c => unpackCommand s.profile c.1 c.2) ++ [.flush]) s =
      .next { s with
        mode := .idle, acc := 0#18, held := 0#5
        inCount := BitVec.ofNat 32 cs.length
        outCount := BitVec.ofNat 32 (cb * cs.length / 8)
        irqPend := s.irqPend ||| 0b10#2
        fifo := s.fifo ++ (unpackedBytes cb (cs.map Prod.snd)).map byteItem ++ [endItem (cb * cs.length / 8)] }

/-- R169: packing n bytes and unpacking the items under the same profile gives the bytes back, and for Large with
n mod 5 = 4 the bytes and one zero byte; by symbols or by raw indices, as EMIT_IDX says. -/
def Obligations.UnpackingAPackedJobGivesTheBytesBackButForTheLargePad : Prop :=
  ∀ (d : List Byte) (s : State), s.mode.jobOpen = false →
    ∃ (items : List Item) (t u : State),
      runInstrs (packJob d) s = .next t ∧ t.fifo = s.fifo ++ items ++ [endItem items.length] ∧
      runInstrs (unpackJobOf s.emitIdx items) t = .next u ∧
      (let out := if s.profile = .large ∧ d.length % 5 = 4 then d ++ [0#8] else d;
        u.fifo = t.fifo ++ out.map byteItem ++ [endItem out.length])

/-! ### Control and status registers (spec 44_csr.md, 10_state.md) -/

/-- R190: WRCSR writes CONFIG outside a job, IRQ_EN and IRQ_PEND in every mode, raises SEQUENCE_ERROR for CONFIG in a
job and ILLEGAL_CSR for every other address; nothing else changes. -/
def Obligations.WrcsrWritesTheThreeWritableRegistersOnly : Prop :=
  (∀ (a : CsrAddr) (v : Word32), encode (.wrcsr a v) =
    0x3000000000000000#64 ||| (a.setWidth 64 <<< 48) ||| v.setWidth 64) ∧
  (∀ (v : Word32) (s : State), s.mode = .idle ∨ s.mode = .error → exec (.wrcsr 0x01#8 v) s =
    .next { s with
      profile := if v.toNat % 16 = 0 then .tiny else if v.toNat % 16 = 1 then .small
        else if v.toNat % 16 = 3 then .large else .standard
      emitIdx := v.getLsbD 4 }) ∧
  (∀ (v : Word32) (s : State), s.mode = .pack ∨ s.mode = .unpack → exec (.wrcsr 0x01#8 v) s =
    .next (raiseError .sequenceError (encode (.wrcsr 0x01#8 v)) s)) ∧
  (∀ (v : Word32) (s : State), exec (.wrcsr 0x0A#8 v) s =
    .next { s with irqEn := BitVec.ofNat 2 (v.toNat % 4) }) ∧
  (∀ (v : Word32) (s : State), exec (.wrcsr 0x0B#8 v) s =
    .next { s with irqPend := s.irqPend &&& ~~~(BitVec.ofNat 2 (v.toNat % 4)) }) ∧
  (∀ (a : CsrAddr) (v : Word32) (s : State), a ≠ 0x01#8 → a ≠ 0x0A#8 → a ≠ 0x0B#8 → exec (.wrcsr a v) s =
    .next (raiseError .illegalCsr (encode (.wrcsr a v)) s))

/-- R25: CONFIG.PROFILE reads back v[3:0] if that is at most 3 and 2 (Standard) otherwise, no error is raised, and a
read of it never gives more than 3. -/
def Obligations.ConfigReadsBackTheWrittenProfileOrStandard : Prop :=
  (∀ (v : Word32) (s : State), s.mode = .idle ∨ s.mode = .error →
    ∃ t, exec (.wrcsr 0x01#8 v) s = .next t ∧ t.mode = s.mode ∧ t.fifo = s.fifo ∧
      (t.csrRead 0x01#8).toNat =
        (if v.toNat % 16 ≤ 3 then v.toNat % 16 else 2) + 16 * (v.toNat / 16 % 2)) ∧
  (∀ s : State, (s.csrRead 0x01#8).toNat % 16 ≤ 3)

/-- R183 with R182 and R184 to R189: the value read at every one of the 256 CSR addresses, for a FIFO level that fits
its five bits; the codes of PROFILE (R24) and MODE (R22) stand by value. -/
def Obligations.CsrReadGivesTheMappedValueAtEveryAddress : Prop :=
  ∀ s : State, s.fifo.length ≤ 31 →
    s.csrRead 0x00#8 = 0x454D4301#32 ∧
    (s.csrRead 0x01#8).toNat = (match s.profile with
      | .tiny => 0
      | .small => 1
      | .standard => 2
      | .large => 3) + 16 * s.emitIdx.toNat ∧
    (s.csrRead 0x02#8).toNat = (match s.mode with
      | .idle => 0
      | .pack => 1
      | .unpack => 2
      | .error => 3) + 2 ^ 8 * s.held.toNat + 2 ^ 16 * s.fifo.length +
      2 ^ 24 * (if 2 ≤ outDepth - s.fifo.length then 1 else 0) ∧
    (s.csrRead 0x03#8).toNat = s.acc.toNat ∧
    s.csrRead 0x04#8 = s.inCount ∧
    s.csrRead 0x05#8 = s.outCount ∧
    (s.csrRead 0x06#8).toNat = s.errCode.toNat ∧
    s.csrRead 0x07#8 = s.errCmdLo ∧
    s.csrRead 0x08#8 = s.errCmdHi ∧
    s.csrRead 0x09#8 = s.errPos ∧
    (s.csrRead 0x0A#8).toNat = s.irqEn.toNat ∧
    (s.csrRead 0x0B#8).toNat = s.irqPend.toNat ∧
    s.csrRead 0x0C#8 = (match s.profile with
      | .tiny => 0x00400006#32
      | .small => 0x00800007#32
      | .standard => 0x01000008#32
      | .large => 0x0400000A#32) ∧
    (∀ a : CsrAddr, 0x0D ≤ a.toNat → s.csrRead a = 0#32)

/-- R23: only a WRCSR to CONFIG outside a job changes PROFILE or EMIT_IDX, so CONFIG holds one value for the whole of a
job. -/
def Obligations.ConfigChangesOnlyByWrcsrOutsideAJob : Prop :=
  ∀ (w : CmdWord) (s t : State), execute w s = .next t →
    t.profile ≠ s.profile ∨ t.emitIdx ≠ s.emitIdx →
    (∃ v, w = encode (.wrcsr 0x01#8 v)) ∧ s.mode.jobOpen = false

/-- R31: a START that executes clears both counters; otherwise OUT_COUNT grows by the SYM, IDX and BYTE items pushed,
and IN_COUNT by one exactly for a data command executed without error; both wrap modulo 2^32. -/
def Obligations.CountersCountDataCommandsAndDataItems : Prop :=
  ∀ (i : Instr) (s t : State), exec i s = .next t →
    ∃ new, t.fifo = s.fifo ++ new ∧
      (isStart i = true → t.mode ≠ .error → t.inCount = 0#32 ∧ t.outCount = 0#32) ∧
      (isStart i = false ∨ t.mode = .error →
        t.outCount = s.outCount + BitVec.ofNat 32 (new.countP (fun x => x.tag.isData)) ∧
        t.inCount = if isDataCommand i = true ∧ t.mode ≠ .error then s.inCount + 1#32 else s.inCount)

/-- R37: the state after reset, through its fields and through the CSR read port (R183). -/
def Obligations.ResetStateHasTheResetValues : Prop :=
  State.reset.mode = .idle ∧
  State.reset.csrRead 0x01#8 = 0x00000002#32 ∧
  State.reset.csrRead 0x02#8 = 0x01000000#32 ∧
  State.reset.acc = 0#18 ∧ State.reset.held = 0#5 ∧
  State.reset.inCount = 0#32 ∧ State.reset.outCount = 0#32 ∧
  State.reset.errCode = 0#8 ∧ State.reset.errCmdLo = 0#32 ∧ State.reset.errCmdHi = 0#32 ∧
  State.reset.errPos = 0#32 ∧
  State.reset.irqEn = 0#2 ∧ State.reset.irqPend = 0#2 ∧
  State.reset.fifo = [] ∧ State.reset.irq = false ∧
  State.reset.csrRead 0x0C#8 = 0x01000008#32

/-! ### Errors and the interrupt (spec 60_exceptions.md) -/

/-- R206: error entry writes the error registers from the word and IN_COUNT, MODE and IRQ_PEND.ERR, pushes the one ERR
item, and writes nothing else; the code of each error stands by value (R201). -/
def Obligations.ErrorEntryRecordsTheErrorAndNothingElse : Prop :=
  ∀ (e : ErrorKind) (w : CmdWord) (s : State),
    let code : Nat := match e with
      | .unknownSymbol => 1
      | .indexRange => 2
      | .illegalCmd => 3
      | .sequenceError => 4
      | .illegalCsr => 5
    raiseError e w s =
      { s with
        errCode := BitVec.ofNat 8 code
        errCmdLo := BitVec.ofNat 32 (w.toNat % 2 ^ 32)
        errCmdHi := BitVec.ofNat 32 (w.toNat / 2 ^ 32)
        errPos := s.inCount
        mode := .error
        irqPend := s.irqPend ||| 0b01#2
        fifo := s.fifo ++ [⟨.err, BitVec.ofNat 32 code⟩] }

/-- R204: an illegal word raises ILLEGAL_CMD before anything else; in ERROR the data commands and FLUSH are discarded;
otherwise the first error of the order is raised, and a command with none of them writes no error register, sets no
ERR bit and pushes no ERR item. -/
def Obligations.ErrorsAreRaisedInTheOrderOfPriority : Prop :=
  ∀ (w : CmdWord) (s : State),
    (legal w = false → execute w s = .next (raiseError .illegalCmd w s)) ∧
    (∀ i, decode w = .ok i → s.mode = .error → isDiscardedInError i = true → execute w s = .next s) ∧
    (∀ i, decode w = .ok i → ¬ (s.mode = .error ∧ isDiscardedInError i = true) →
      (∀ e, commandError s i = some e → execute w s = .next (raiseError e w s)) ∧
      (commandError s i = none → ∃ t, execute w s = .next t ∧ t.errCode = s.errCode ∧
        t.errCmdLo = s.errCmdLo ∧ t.errCmdHi = s.errCmdHi ∧ t.errPos = s.errPos ∧
        (t.irqPend.getLsbD 0 = true → s.irqPend.getLsbD 0 = true) ∧
        ∃ new, t.fifo = s.fifo ++ new ∧ ∀ x ∈ new, x.tag ≠ .err))

/-- R32 over clock edges: outside reset the error registers change only by the error entry of the accepted word, with
nothing else of that word's effect (R207). -/
def Obligations.ErrorRegistersChangeOnlyByErrorEntry : Prop :=
  ∀ s t : State, s.currentEdge.rstN = true → step s = .next t →
    t.errCode ≠ s.errCode ∨ t.errCmdLo ≠ s.errCmdLo ∨ t.errCmdHi ≠ s.errCmdHi ∨ t.errPos ≠ s.errPos →
    ∃ w e, s.acceptedWord = some w ∧ t = s.afterAccept (raiseError e w s)

/-- R211: in ERROR a legal PUSH_BYTE, PUSH_SYM, PUSH_IDX or FLUSH changes nothing and pushes nothing. -/
def Obligations.DataCommandsAreDiscardedInError : Prop :=
  ∀ s : State, s.mode = .error →
    (∀ b, execute (encode (.pushByte b)) s = .next s) ∧ (∀ sym, execute (encode (.pushSym sym)) s = .next s) ∧
    (∀ x, execute (encode (.pushIdx x)) s = .next s) ∧ execute (encode .flush) s = .next s

/-- R213: START_PACK, START_UNPACK and ABORT leave ERROR, for PACK, UNPACK and IDLE; nothing else does; and leaving it
keeps the record of the last error. -/
def Obligations.OnlyStartAndAbortLeaveErrorAndTheRecordStays : Prop :=
  (∀ s : State, s.mode = .error →
    (∃ t, execute (encode .startPack) s = .next t ∧ t.mode = .pack) ∧
    (∃ t, execute (encode .startUnpack) s = .next t ∧ t.mode = .unpack) ∧
    (∃ t, execute (encode .abort) s = .next t ∧ t.mode = .idle)) ∧
  (∀ (w : CmdWord) (s t : State), s.mode = .error → execute w s = .next t → t.mode ≠ .error →
    (w = encode .startPack ∨ w = encode .startUnpack ∨ w = encode .abort) ∧
    t.errCode = s.errCode ∧ t.errCmdLo = s.errCmdLo ∧ t.errCmdHi = s.errCmdHi ∧ t.errPos = s.errPos)

/-- R214: an illegal word or a WRCSR to a read-only or unimplemented address in ERROR enters the error anew: the last
error wins, MODE stays ERROR; and ABORT still returns to IDLE from there. -/
def Obligations.NestedErrorOverwritesTheRecordAndAbortStillReturns : Prop :=
  ∀ (w : CmdWord) (s : State), s.mode = .error →
    (legal w = false ∨ ∃ a v, w = encode (.wrcsr a v) ∧ a ≠ 0x01#8 ∧ a ≠ 0x0A#8 ∧ a ≠ 0x0B#8) →
    ∃ e t u, execute w s = .next t ∧ t = raiseError e w s ∧ t.mode = .error ∧
      t.errCode = e.code ∧ t.errCmdLo = w.extractLsb' 0 32 ∧ t.errCmdHi = w.extractLsb' 32 32 ∧
      (e = .illegalCmd ∨ e = .illegalCsr) ∧
      exec .abort t = .next u ∧ u.mode = .idle

/-- R34 and R212: IRQ_PEND.ERR is newly set only by error entry and IRQ_PEND.END only by a FLUSH that ends a job, and a
pending bit is cleared only by a WRCSR of 1 to it. -/
def Obligations.PendingBitsAreSetByTheirEventsAndClearedByWritingOne : Prop :=
  ∀ (w : CmdWord) (s t : State), execute w s = .next t →
    (s.irqPend.getLsbD 0 = false → t.irqPend.getLsbD 0 = true → ∃ e, t = raiseError e w s) ∧
    (s.irqPend.getLsbD 1 = false → t.irqPend.getLsbD 1 = true → w = encode .flush ∧ s.mode.jobOpen = true) ∧
    (∀ k, s.irqPend.getLsbD k = true → t.irqPend.getLsbD k = false →
      ∃ v, w = encode (.wrcsr 0x0B#8 v) ∧ v.getLsbD k = true)

/-- R212: the level of `irq`, bit by bit. -/
def Obligations.IrqIsTheEnabledPendingLevel : Prop :=
  ∀ s : State, s.irq = ((s.irqPend.getLsbD 0 && s.irqEn.getLsbD 0) || (s.irqPend.getLsbD 1 && s.irqEn.getLsbD 1))

/-! ### Ports, steps and reset (spec 20_memory.md, 70_reset_and_hazards.md) -/

/-- Every command answers a next state, never a fault or a refusal, leaves the host's queue, the host's schedule, the
position and IRQ_EN (but for WRCSR) alone, and takes no item out of the FIFO (R33, R63, R100). -/
def Obligations.EveryCommandCompletesAndOnlyAppendsToTheFifo : Prop :=
  ∀ (i : Instr) (s : State), ∃ t, exec i s = .next t ∧
    t.cmdPos = s.cmdPos ∧ t.offered = s.offered ∧ t.edges = s.edges ∧
    ((∀ a v, i ≠ .wrcsr a v) → t.irqEn = s.irqEn) ∧ ∃ new, t.fifo = s.fifo ++ new

/-- R7 and R52: OUT_DEPTH is between 2 and 31, and `cmd_ready` is 1 exactly out of reset with 2 entries free. -/
def Obligations.CmdReadyNeedsTwoFreeEntriesOutOfReset : Prop :=
  2 ≤ outDepth ∧ outDepth ≤ 31 ∧
  (∀ s : State, s.cmdReady = true ↔ s.currentEdge.rstN = true ∧ 2 ≤ outDepth - s.fifo.length)

/-- A step runs the decoded instruction (R51, R63, R100): out of reset, with a legal word offered and room in the FIFO,
the step is exec of that command, and around it the word leaves the port, the position advances by 1 (R21), and the
head item leaves if the host takes it (R53). -/
def Obligations.StepRunsTheDecodedInstruction : Prop :=
  ∀ (s t : State) (w : CmdWord) (ws : List CmdWord) (i : Instr),
    s.currentEdge.rstN = true → s.currentEdge.cmdValid = true → s.offered = w :: ws → s.hasRoom = true →
    decode w = .ok i → exec i s = .next t →
    step s = .next { t with
      fifo := if s.currentEdge.resReady = true ∧ s.fifo ≠ [] then t.fifo.tail else t.fifo
      cmdPos := s.cmdPos + 1, offered := ws, edges := s.edges.tail }

/-- The same for an illegal word: the step is the entry of ILLEGAL_CMD (R84, R100). -/
def Obligations.StepOnAnIllegalWordEntersIllegalCmd : Prop :=
  ∀ (s : State) (w : CmdWord) (ws : List CmdWord),
    s.currentEdge.rstN = true → s.currentEdge.cmdValid = true → s.offered = w :: ws → s.hasRoom = true →
    legal w = false →
    step s = .next { raiseError .illegalCmd w s with
      fifo := if s.currentEdge.resReady = true ∧ s.fifo ≠ [] then (raiseError .illegalCmd w s).fifo.tail
        else (raiseError .illegalCmd w s).fifo
      cmdPos := s.cmdPos + 1, offered := ws, edges := s.edges.tail }

/-- R52 with R241: while the FIFO has no room an offered word is neither executed nor dropped, only a pop lifts the
hold, and with no edge left on the host's schedule the machine stops as held. That the stop is a fault is the
model's choice (log 5). -/
def Obligations.AHeldCommandIsNeitherExecutedNorDropped : Prop :=
  (∀ s : State, s.currentEdge.rstN = true → s.hasRoom = false → s.edges ≠ [] →
    step s = .next { s with
      fifo := if s.currentEdge.resReady = true then s.fifo.tail else s.fifo, edges := s.edges.tail }) ∧
  (∀ s : State, s.hasRoom = false → s.edges = [] → s.offered ≠ [] → step s = .fault .engineHeld) ∧
  (∀ s : State, s.currentEdge.rstN = true → s.edges ≠ [] → s.fifo.length + 1 = outDepth →
    ∃ t, step s = .next t ∧ t.offered = s.offered ∧ (t.hasRoom = true ↔ s.currentEdge.resReady = true))

/-- R221 and R53: at an edge out of reset with no word offered, nothing changes but the item the host takes. -/
def Obligations.AnEdgeWithoutACommandChangesOnlyWhatTheHostTakes : Prop :=
  ∀ s : State, s.currentEdge.rstN = true → s.cmdOnPort = none →
    step s = .next { s with
      fifo := if s.currentEdge.resReady = true then s.fifo.tail else s.fifo, edges := s.edges.tail }

/-- R53 with R33: out of reset `res_valid` is 1 exactly when the FIFO is not empty, `res_tag` and `res_data` are the head
item's, the tag by its number, and an edge takes the head away exactly if the host is ready, with the items pushed at that
edge behind what is left. -/
def Obligations.ResultPortPresentsTheHeadItemAndAPopRemovesIt : Prop :=
  ∀ s : State, s.currentEdge.rstN = true →
    (s.resValid = true ↔ s.fifo ≠ []) ∧
    (∀ (x : Item) (rest : List Item), s.fifo = x :: rest →
      s.resTag = some (match x.tag with
        | .sym => 0#3
        | .idx => 1#3
        | .byte => 2#3
        | .lut => 3#3
        | .jobEnd => 4#3
        | .err => 5#3
        | .aborted => 6#3
        | .lutMiss => 7#3) ∧
      s.resData = some x.data) ∧
    (∀ t : State, step s = .next t →
      t.fifo = (if s.currentEdge.resReady = true then s.fifo.tail else s.fifo) ++ pushedAtEdge s)

/-- R230: at an edge with `rst_n = 0` every state element takes its reset value and the FIFO is emptied; nothing is
accepted, and `cmd_ready` and `res_valid` are 0. The position goes back to 0 by the
model's reading of R21 (log 7); that the host's own queue stays is the model's choice (log 11). -/
def Obligations.ResetEdgeRestoresTheResetStateAndAcceptsNothing : Prop :=
  ∀ s : State, s.currentEdge.rstN = false →
    step s = .next { State.reset with offered := s.offered, edges := s.edges.tail } ∧
    s.cmdReady = false ∧ s.acceptedWord = none ∧ s.resValid = false ∧ s.poppedItem = none

/-- R28 and R33 hold at reset; the invariant's clause for ERROR is the model's reading (log 10). -/
def Obligations.InvariantHoldsAtReset : Prop :=
  State.reset.inv

/-- R28 and R33: every step keeps the cursor invariants of the mode and the bound on the FIFO, from every state that
meets them. That R28's clause for ERROR is HELD < 10 and ACC < 2^HELD is the model's reading (log 10). -/
def Obligations.EveryStepKeepsTheInvariant : Prop :=
  ∀ s t : State, s.inv → step s = .next t → t.inv

/-- R28, its ERROR clause: a command after which MODE is ERROR has left ACC and HELD as they were. -/
def Obligations.ErrorModeKeepsTheCursorOfTheFaultingCommand : Prop :=
  ∀ (w : CmdWord) (s t : State), execute w s = .next t → t.mode = .error → t.acc = s.acc ∧ t.held = s.held

/-- R52: an accepted command always finds room for all its pushes. -/
def Obligations.AcceptedCommandFindsRoomForAllItsPushes : Prop :=
  ∀ (s t : State) (w : CmdWord), s.inv → s.acceptedWord = some w → execute w s = .next t →
    t.fifo.length ≤ outDepth

/-- R63: over any number of edges out of reset, the stream the host pops followed by what is still in the FIFO is what
was in the FIFO followed by the pushes of the accepted commands, in command order. -/
def Obligations.ResultStreamIsTheConcatenationOfThePushes : Prop :=
  ∀ (n : Nat) (s t : State), (∀ e ∈ s.edges, e.rstN = true) → Sys2Proof.core.run n s = .next t →
    poppedOver n s ++ t.fifo = s.fifo ++ pushedOver n s
end

