-- ==== Sys2Proof/Laws/Decode.lean ====
section
/-! SUPPORT. The parts of the round trip between words, fields and commands. -/

namespace Sys2Proof.Laws

open Sys2Proof

@[simp] theorem fieldsOf_wordOf (f : Fields) : fieldsOf (wordOf f) = f := by
  obtain ⟨o, c, r, d⟩ := f
  simp only [fieldsOf, wordOf, Fields.mk.injEq]
  refine ⟨?_, ?_, ?_, ?_⟩ <;>
  · apply BitVec.eq_of_getLsbD_eq
    intro i hi
    simp only [BitVec.getLsbD_extractLsb', BitVec.getLsbD_append]
    grind

@[simp] theorem wordOf_fieldsOf (w : CmdWord) : wordOf (fieldsOf w) = w := by
  apply BitVec.eq_of_getLsbD_eq
  intro i hi
  simp only [fieldsOf, wordOf, BitVec.getLsbD_extractLsb', BitVec.getLsbD_append]
  grind

@[simp] theorem fieldsOf_encode (i : Instr) : fieldsOf (encode i) = fieldsOfInstr i :=
  fieldsOf_wordOf _

theorem decode_encode_eq (i : Instr) : decode (encode i) = decodeFields (fieldsOfInstr i) := by
  simp only [decode, fieldsOf_encode]

@[simp] theorem opcode_ofCode_code (o : Opcode) : Opcode.ofCode o.code = some o := by
  cases o <;> decide

theorem opcode_code_of_ofCode {c : BitVec 8} {o : Opcode} (h : Opcode.ofCode c = some o) : o.code = c := by
  simpa using List.find?_some h

@[simp] theorem csr_ofAddress_address (c : CsrName) : CsrName.ofAddress c.address = some c := by
  cases c <;> decide

theorem csr_address_of_ofAddress {a : CsrAddr} {c : CsrName} (h : CsrName.ofAddress a = some c) :
    c.address = a := by
  simpa using List.find?_some h

/-- The upper half of every command word: OPC, CSR and RSV (R80). -/
theorem wordOf_high (f : Fields) : (wordOf f).extractLsb' 32 32 = f.opc ++ f.csr ++ f.rsv := by
  apply BitVec.eq_of_getLsbD_eq
  intro i hi
  simp only [wordOf, BitVec.getLsbD_extractLsb', BitVec.getLsbD_append]
  grind

end Sys2Proof.Laws
end

