-- ==== Sys2Proof/Laws/State.lean ====
section
/-! SUPPORT. What each update of the state makes of each field: one lemma a field and update, so that no proof
unfolds a record update. -/

namespace Sys2Proof.Machine

/-! ### Appending an item (R33) -/

@[simp] theorem push_mode (s : State) (tag : Tag) (data : Word32) :
    (s.push tag data).mode = s.mode := rfl

@[simp] theorem push_profile (s : State) (tag : Tag) (data : Word32) :
    (s.push tag data).profile = s.profile := rfl

@[simp] theorem push_emitIdx (s : State) (tag : Tag) (data : Word32) :
    (s.push tag data).emitIdx = s.emitIdx := rfl

@[simp] theorem push_acc (s : State) (tag : Tag) (data : Word32) :
    (s.push tag data).acc = s.acc := rfl

@[simp] theorem push_held (s : State) (tag : Tag) (data : Word32) :
    (s.push tag data).held = s.held := rfl

@[simp] theorem push_inCount (s : State) (tag : Tag) (data : Word32) :
    (s.push tag data).inCount = s.inCount := rfl

@[simp] theorem push_outCount (s : State) (tag : Tag) (data : Word32) :
    (s.push tag data).outCount = s.outCount := rfl

@[simp] theorem push_errCode (s : State) (tag : Tag) (data : Word32) :
    (s.push tag data).errCode = s.errCode := rfl

@[simp] theorem push_errCmdLo (s : State) (tag : Tag) (data : Word32) :
    (s.push tag data).errCmdLo = s.errCmdLo := rfl

@[simp] theorem push_errCmdHi (s : State) (tag : Tag) (data : Word32) :
    (s.push tag data).errCmdHi = s.errCmdHi := rfl

@[simp] theorem push_errPos (s : State) (tag : Tag) (data : Word32) :
    (s.push tag data).errPos = s.errPos := rfl

@[simp] theorem push_fifo (s : State) (tag : Tag) (data : Word32) :
    (s.push tag data).fifo = s.fifo ++ [⟨tag, data⟩] := rfl

@[simp] theorem push_irqEn (s : State) (tag : Tag) (data : Word32) :
    (s.push tag data).irqEn = s.irqEn := rfl

@[simp] theorem push_irqPend (s : State) (tag : Tag) (data : Word32) :
    (s.push tag data).irqPend = s.irqPend := rfl

@[simp] theorem push_cmdPos (s : State) (tag : Tag) (data : Word32) :
    (s.push tag data).cmdPos = s.cmdPos := rfl

@[simp] theorem push_offered (s : State) (tag : Tag) (data : Word32) :
    (s.push tag data).offered = s.offered := rfl

@[simp] theorem push_edges (s : State) (tag : Tag) (data : Word32) :
    (s.push tag data).edges = s.edges := rfl

/-! ### Error entry (R206) -/

@[simp] theorem raiseError_mode (e : ErrorKind) (w : CmdWord) (s : State) :
    (raiseError e w s).mode = .error := rfl

@[simp] theorem raiseError_profile (e : ErrorKind) (w : CmdWord) (s : State) :
    (raiseError e w s).profile = s.profile := rfl

@[simp] theorem raiseError_emitIdx (e : ErrorKind) (w : CmdWord) (s : State) :
    (raiseError e w s).emitIdx = s.emitIdx := rfl

@[simp] theorem raiseError_acc (e : ErrorKind) (w : CmdWord) (s : State) :
    (raiseError e w s).acc = s.acc := rfl

@[simp] theorem raiseError_held (e : ErrorKind) (w : CmdWord) (s : State) :
    (raiseError e w s).held = s.held := rfl

@[simp] theorem raiseError_inCount (e : ErrorKind) (w : CmdWord) (s : State) :
    (raiseError e w s).inCount = s.inCount := rfl

@[simp] theorem raiseError_outCount (e : ErrorKind) (w : CmdWord) (s : State) :
    (raiseError e w s).outCount = s.outCount := rfl

@[simp] theorem raiseError_errCode (e : ErrorKind) (w : CmdWord) (s : State) :
    (raiseError e w s).errCode = e.code := rfl

@[simp] theorem raiseError_errCmdLo (e : ErrorKind) (w : CmdWord) (s : State) :
    (raiseError e w s).errCmdLo = w.extractLsb' 0 32 := rfl

@[simp] theorem raiseError_errCmdHi (e : ErrorKind) (w : CmdWord) (s : State) :
    (raiseError e w s).errCmdHi = w.extractLsb' 32 32 := rfl

@[simp] theorem raiseError_errPos (e : ErrorKind) (w : CmdWord) (s : State) :
    (raiseError e w s).errPos = s.inCount := rfl

@[simp] theorem raiseError_fifo (e : ErrorKind) (w : CmdWord) (s : State) :
    (raiseError e w s).fifo = s.fifo ++ [⟨.err, e.code.setWidth 32⟩] := rfl

@[simp] theorem raiseError_irqEn (e : ErrorKind) (w : CmdWord) (s : State) :
    (raiseError e w s).irqEn = s.irqEn := rfl

@[simp] theorem raiseError_irqPend (e : ErrorKind) (w : CmdWord) (s : State) :
    (raiseError e w s).irqPend = raiseIrq irqErr s.irqPend := rfl

@[simp] theorem raiseError_cmdPos (e : ErrorKind) (w : CmdWord) (s : State) :
    (raiseError e w s).cmdPos = s.cmdPos := rfl

@[simp] theorem raiseError_offered (e : ErrorKind) (w : CmdWord) (s : State) :
    (raiseError e w s).offered = s.offered := rfl

@[simp] theorem raiseError_edges (e : ErrorKind) (w : CmdWord) (s : State) :
    (raiseError e w s).edges = s.edges := rfl

/-! ### Leaving a job (R104, R105) -/

@[simp] theorem toIdle_mode (s : State) :
    s.toIdle.mode = .idle := rfl

@[simp] theorem toIdle_profile (s : State) :
    s.toIdle.profile = s.profile := rfl

@[simp] theorem toIdle_emitIdx (s : State) :
    s.toIdle.emitIdx = s.emitIdx := rfl

@[simp] theorem toIdle_acc (s : State) :
    s.toIdle.acc = 0#18 := rfl

@[simp] theorem toIdle_held (s : State) :
    s.toIdle.held = 0#5 := rfl

@[simp] theorem toIdle_inCount (s : State) :
    s.toIdle.inCount = s.inCount := rfl

@[simp] theorem toIdle_outCount (s : State) :
    s.toIdle.outCount = s.outCount := rfl

@[simp] theorem toIdle_errCode (s : State) :
    s.toIdle.errCode = s.errCode := rfl

@[simp] theorem toIdle_errCmdLo (s : State) :
    s.toIdle.errCmdLo = s.errCmdLo := rfl

@[simp] theorem toIdle_errCmdHi (s : State) :
    s.toIdle.errCmdHi = s.errCmdHi := rfl

@[simp] theorem toIdle_errPos (s : State) :
    s.toIdle.errPos = s.errPos := rfl

@[simp] theorem toIdle_fifo (s : State) :
    s.toIdle.fifo = s.fifo := rfl

@[simp] theorem toIdle_irqEn (s : State) :
    s.toIdle.irqEn = s.irqEn := rfl

@[simp] theorem toIdle_irqPend (s : State) :
    s.toIdle.irqPend = s.irqPend := rfl

@[simp] theorem toIdle_cmdPos (s : State) :
    s.toIdle.cmdPos = s.cmdPos := rfl

@[simp] theorem toIdle_offered (s : State) :
    s.toIdle.offered = s.offered := rfl

@[simp] theorem toIdle_edges (s : State) :
    s.toIdle.edges = s.edges := rfl

/-! ### Opening a job (R102, R103) -/

@[simp] theorem openJob_mode (s : State) (m : Mode) :
    (s.openJob m).mode = m := rfl

@[simp] theorem openJob_profile (s : State) (m : Mode) :
    (s.openJob m).profile = s.profile := rfl

@[simp] theorem openJob_emitIdx (s : State) (m : Mode) :
    (s.openJob m).emitIdx = s.emitIdx := rfl

@[simp] theorem openJob_acc (s : State) (m : Mode) :
    (s.openJob m).acc = 0#18 := rfl

@[simp] theorem openJob_held (s : State) (m : Mode) :
    (s.openJob m).held = 0#5 := rfl

@[simp] theorem openJob_inCount (s : State) (m : Mode) :
    (s.openJob m).inCount = 0#32 := rfl

@[simp] theorem openJob_outCount (s : State) (m : Mode) :
    (s.openJob m).outCount = 0#32 := rfl

@[simp] theorem openJob_errCode (s : State) (m : Mode) :
    (s.openJob m).errCode = s.errCode := rfl

@[simp] theorem openJob_errCmdLo (s : State) (m : Mode) :
    (s.openJob m).errCmdLo = s.errCmdLo := rfl

@[simp] theorem openJob_errCmdHi (s : State) (m : Mode) :
    (s.openJob m).errCmdHi = s.errCmdHi := rfl

@[simp] theorem openJob_errPos (s : State) (m : Mode) :
    (s.openJob m).errPos = s.errPos := rfl

@[simp] theorem openJob_fifo (s : State) (m : Mode) :
    (s.openJob m).fifo = s.fifo := rfl

@[simp] theorem openJob_irqEn (s : State) (m : Mode) :
    (s.openJob m).irqEn = s.irqEn := rfl

@[simp] theorem openJob_irqPend (s : State) (m : Mode) :
    (s.openJob m).irqPend = s.irqPend := rfl

@[simp] theorem openJob_cmdPos (s : State) (m : Mode) :
    (s.openJob m).cmdPos = s.cmdPos := rfl

@[simp] theorem openJob_offered (s : State) (m : Mode) :
    (s.openJob m).offered = s.offered := rfl

@[simp] theorem openJob_edges (s : State) (m : Mode) :
    (s.openJob m).edges = s.edges := rfl

/-! ### Writing the cursor (R26, R27) -/

@[simp] theorem setCursor_mode (s : State) (d : Drained) :
    (s.setCursor d).mode = s.mode := rfl

@[simp] theorem setCursor_profile (s : State) (d : Drained) :
    (s.setCursor d).profile = s.profile := rfl

@[simp] theorem setCursor_emitIdx (s : State) (d : Drained) :
    (s.setCursor d).emitIdx = s.emitIdx := rfl

@[simp] theorem setCursor_acc (s : State) (d : Drained) :
    (s.setCursor d).acc = BitVec.ofNat 18 d.acc := rfl

@[simp] theorem setCursor_held (s : State) (d : Drained) :
    (s.setCursor d).held = BitVec.ofNat 5 d.held := rfl

@[simp] theorem setCursor_inCount (s : State) (d : Drained) :
    (s.setCursor d).inCount = s.inCount := rfl

@[simp] theorem setCursor_outCount (s : State) (d : Drained) :
    (s.setCursor d).outCount = s.outCount := rfl

@[simp] theorem setCursor_errCode (s : State) (d : Drained) :
    (s.setCursor d).errCode = s.errCode := rfl

@[simp] theorem setCursor_errCmdLo (s : State) (d : Drained) :
    (s.setCursor d).errCmdLo = s.errCmdLo := rfl

@[simp] theorem setCursor_errCmdHi (s : State) (d : Drained) :
    (s.setCursor d).errCmdHi = s.errCmdHi := rfl

@[simp] theorem setCursor_errPos (s : State) (d : Drained) :
    (s.setCursor d).errPos = s.errPos := rfl

@[simp] theorem setCursor_fifo (s : State) (d : Drained) :
    (s.setCursor d).fifo = s.fifo := rfl

@[simp] theorem setCursor_irqEn (s : State) (d : Drained) :
    (s.setCursor d).irqEn = s.irqEn := rfl

@[simp] theorem setCursor_irqPend (s : State) (d : Drained) :
    (s.setCursor d).irqPend = s.irqPend := rfl

@[simp] theorem setCursor_cmdPos (s : State) (d : Drained) :
    (s.setCursor d).cmdPos = s.cmdPos := rfl

@[simp] theorem setCursor_offered (s : State) (d : Drained) :
    (s.setCursor d).offered = s.offered := rfl

@[simp] theorem setCursor_edges (s : State) (d : Drained) :
    (s.setCursor d).edges = s.edges := rfl

/-! ### Counting an item (R31) -/

@[simp] theorem countOut_mode (s : State) :
    s.countOut.mode = s.mode := rfl

@[simp] theorem countOut_profile (s : State) :
    s.countOut.profile = s.profile := rfl

@[simp] theorem countOut_emitIdx (s : State) :
    s.countOut.emitIdx = s.emitIdx := rfl

@[simp] theorem countOut_acc (s : State) :
    s.countOut.acc = s.acc := rfl

@[simp] theorem countOut_held (s : State) :
    s.countOut.held = s.held := rfl

@[simp] theorem countOut_inCount (s : State) :
    s.countOut.inCount = s.inCount := rfl

@[simp] theorem countOut_outCount (s : State) :
    s.countOut.outCount = s.outCount + 1#32 := rfl

@[simp] theorem countOut_errCode (s : State) :
    s.countOut.errCode = s.errCode := rfl

@[simp] theorem countOut_errCmdLo (s : State) :
    s.countOut.errCmdLo = s.errCmdLo := rfl

@[simp] theorem countOut_errCmdHi (s : State) :
    s.countOut.errCmdHi = s.errCmdHi := rfl

@[simp] theorem countOut_errPos (s : State) :
    s.countOut.errPos = s.errPos := rfl

@[simp] theorem countOut_fifo (s : State) :
    s.countOut.fifo = s.fifo := rfl

@[simp] theorem countOut_irqEn (s : State) :
    s.countOut.irqEn = s.irqEn := rfl

@[simp] theorem countOut_irqPend (s : State) :
    s.countOut.irqPend = s.irqPend := rfl

@[simp] theorem countOut_cmdPos (s : State) :
    s.countOut.cmdPos = s.cmdPos := rfl

@[simp] theorem countOut_offered (s : State) :
    s.countOut.offered = s.offered := rfl

@[simp] theorem countOut_edges (s : State) :
    s.countOut.edges = s.edges := rfl

/-! ### Counting a data command (R31) -/

@[simp] theorem countIn_mode (s : State) :
    s.countIn.mode = s.mode := rfl

@[simp] theorem countIn_profile (s : State) :
    s.countIn.profile = s.profile := rfl

@[simp] theorem countIn_emitIdx (s : State) :
    s.countIn.emitIdx = s.emitIdx := rfl

@[simp] theorem countIn_acc (s : State) :
    s.countIn.acc = s.acc := rfl

@[simp] theorem countIn_held (s : State) :
    s.countIn.held = s.held := rfl

@[simp] theorem countIn_inCount (s : State) :
    s.countIn.inCount = s.inCount + 1#32 := rfl

@[simp] theorem countIn_outCount (s : State) :
    s.countIn.outCount = s.outCount := rfl

@[simp] theorem countIn_errCode (s : State) :
    s.countIn.errCode = s.errCode := rfl

@[simp] theorem countIn_errCmdLo (s : State) :
    s.countIn.errCmdLo = s.errCmdLo := rfl

@[simp] theorem countIn_errCmdHi (s : State) :
    s.countIn.errCmdHi = s.errCmdHi := rfl

@[simp] theorem countIn_errPos (s : State) :
    s.countIn.errPos = s.errPos := rfl

@[simp] theorem countIn_fifo (s : State) :
    s.countIn.fifo = s.fifo := rfl

@[simp] theorem countIn_irqEn (s : State) :
    s.countIn.irqEn = s.irqEn := rfl

@[simp] theorem countIn_irqPend (s : State) :
    s.countIn.irqPend = s.irqPend := rfl

@[simp] theorem countIn_cmdPos (s : State) :
    s.countIn.cmdPos = s.cmdPos := rfl

@[simp] theorem countIn_offered (s : State) :
    s.countIn.offered = s.offered := rfl

@[simp] theorem countIn_edges (s : State) :
    s.countIn.edges = s.edges := rfl

/-! ### Emitting a byte (R160) -/

@[simp] theorem emitByte_mode (s : State) (v : Nat) :
    (s.emitByte v).mode = s.mode := rfl

@[simp] theorem emitByte_profile (s : State) (v : Nat) :
    (s.emitByte v).profile = s.profile := rfl

@[simp] theorem emitByte_emitIdx (s : State) (v : Nat) :
    (s.emitByte v).emitIdx = s.emitIdx := rfl

@[simp] theorem emitByte_acc (s : State) (v : Nat) :
    (s.emitByte v).acc = s.acc := rfl

@[simp] theorem emitByte_held (s : State) (v : Nat) :
    (s.emitByte v).held = s.held := rfl

@[simp] theorem emitByte_inCount (s : State) (v : Nat) :
    (s.emitByte v).inCount = s.inCount := rfl

@[simp] theorem emitByte_outCount (s : State) (v : Nat) :
    (s.emitByte v).outCount = s.outCount + 1#32 := rfl

@[simp] theorem emitByte_errCode (s : State) (v : Nat) :
    (s.emitByte v).errCode = s.errCode := rfl

@[simp] theorem emitByte_errCmdLo (s : State) (v : Nat) :
    (s.emitByte v).errCmdLo = s.errCmdLo := rfl

@[simp] theorem emitByte_errCmdHi (s : State) (v : Nat) :
    (s.emitByte v).errCmdHi = s.errCmdHi := rfl

@[simp] theorem emitByte_errPos (s : State) (v : Nat) :
    (s.emitByte v).errPos = s.errPos := rfl

@[simp] theorem emitByte_fifo (s : State) (v : Nat) :
    (s.emitByte v).fifo = s.fifo ++ [⟨.byte, BitVec.ofNat 32 v⟩] := rfl

@[simp] theorem emitByte_irqEn (s : State) (v : Nat) :
    (s.emitByte v).irqEn = s.irqEn := rfl

@[simp] theorem emitByte_irqPend (s : State) (v : Nat) :
    (s.emitByte v).irqPend = s.irqPend := rfl

@[simp] theorem emitByte_cmdPos (s : State) (v : Nat) :
    (s.emitByte v).cmdPos = s.cmdPos := rfl

@[simp] theorem emitByte_offered (s : State) (v : Nat) :
    (s.emitByte v).offered = s.offered := rfl

@[simp] theorem emitByte_edges (s : State) (v : Nat) :
    (s.emitByte v).edges = s.edges := rfl

/-! ### Writing CONFIG (R190) -/

@[simp] theorem writeConfig_mode (s : State) (v : Word32) :
    (s.writeConfig v).mode = s.mode := rfl

@[simp] theorem writeConfig_profile (s : State) (v : Word32) :
    (s.writeConfig v).profile = profileOfCode (v.extractLsb' 0 4) := rfl

@[simp] theorem writeConfig_emitIdx (s : State) (v : Word32) :
    (s.writeConfig v).emitIdx = v.getLsbD 4 := rfl

@[simp] theorem writeConfig_acc (s : State) (v : Word32) :
    (s.writeConfig v).acc = s.acc := rfl

@[simp] theorem writeConfig_held (s : State) (v : Word32) :
    (s.writeConfig v).held = s.held := rfl

@[simp] theorem writeConfig_inCount (s : State) (v : Word32) :
    (s.writeConfig v).inCount = s.inCount := rfl

@[simp] theorem writeConfig_outCount (s : State) (v : Word32) :
    (s.writeConfig v).outCount = s.outCount := rfl

@[simp] theorem writeConfig_errCode (s : State) (v : Word32) :
    (s.writeConfig v).errCode = s.errCode := rfl

@[simp] theorem writeConfig_errCmdLo (s : State) (v : Word32) :
    (s.writeConfig v).errCmdLo = s.errCmdLo := rfl

@[simp] theorem writeConfig_errCmdHi (s : State) (v : Word32) :
    (s.writeConfig v).errCmdHi = s.errCmdHi := rfl

@[simp] theorem writeConfig_errPos (s : State) (v : Word32) :
    (s.writeConfig v).errPos = s.errPos := rfl

@[simp] theorem writeConfig_fifo (s : State) (v : Word32) :
    (s.writeConfig v).fifo = s.fifo := rfl

@[simp] theorem writeConfig_irqEn (s : State) (v : Word32) :
    (s.writeConfig v).irqEn = s.irqEn := rfl

@[simp] theorem writeConfig_irqPend (s : State) (v : Word32) :
    (s.writeConfig v).irqPend = s.irqPend := rfl

@[simp] theorem writeConfig_cmdPos (s : State) (v : Word32) :
    (s.writeConfig v).cmdPos = s.cmdPos := rfl

@[simp] theorem writeConfig_offered (s : State) (v : Word32) :
    (s.writeConfig v).offered = s.offered := rfl

@[simp] theorem writeConfig_edges (s : State) (v : Word32) :
    (s.writeConfig v).edges = s.edges := rfl

/-! ### Ending a job (R104) -/

@[simp] theorem finishJob_mode (s : State) :
    (finishJob s).mode = .idle := rfl

@[simp] theorem finishJob_profile (s : State) :
    (finishJob s).profile = s.profile := rfl

@[simp] theorem finishJob_emitIdx (s : State) :
    (finishJob s).emitIdx = s.emitIdx := rfl

@[simp] theorem finishJob_acc (s : State) :
    (finishJob s).acc = 0#18 := rfl

@[simp] theorem finishJob_held (s : State) :
    (finishJob s).held = 0#5 := rfl

@[simp] theorem finishJob_inCount (s : State) :
    (finishJob s).inCount = s.inCount := rfl

@[simp] theorem finishJob_outCount (s : State) :
    (finishJob s).outCount = s.outCount := rfl

@[simp] theorem finishJob_errCode (s : State) :
    (finishJob s).errCode = s.errCode := rfl

@[simp] theorem finishJob_errCmdLo (s : State) :
    (finishJob s).errCmdLo = s.errCmdLo := rfl

@[simp] theorem finishJob_errCmdHi (s : State) :
    (finishJob s).errCmdHi = s.errCmdHi := rfl

@[simp] theorem finishJob_errPos (s : State) :
    (finishJob s).errPos = s.errPos := rfl

@[simp] theorem finishJob_fifo (s : State) :
    (finishJob s).fifo = s.fifo ++ [⟨.jobEnd, s.outCount⟩] := rfl

@[simp] theorem finishJob_irqEn (s : State) :
    (finishJob s).irqEn = s.irqEn := rfl

@[simp] theorem finishJob_irqPend (s : State) :
    (finishJob s).irqPend = raiseIrq irqEnd s.irqPend := rfl

@[simp] theorem finishJob_cmdPos (s : State) :
    (finishJob s).cmdPos = s.cmdPos := rfl

@[simp] theorem finishJob_offered (s : State) :
    (finishJob s).offered = s.offered := rfl

@[simp] theorem finishJob_edges (s : State) :
    (finishJob s).edges = s.edges := rfl

/-! ### The edge of an accepted command (R51) -/

@[simp] theorem afterAccept_mode (s t : State) :
    (s.afterAccept t).mode = t.mode := rfl

@[simp] theorem afterAccept_profile (s t : State) :
    (s.afterAccept t).profile = t.profile := rfl

@[simp] theorem afterAccept_emitIdx (s t : State) :
    (s.afterAccept t).emitIdx = t.emitIdx := rfl

@[simp] theorem afterAccept_acc (s t : State) :
    (s.afterAccept t).acc = t.acc := rfl

@[simp] theorem afterAccept_held (s t : State) :
    (s.afterAccept t).held = t.held := rfl

@[simp] theorem afterAccept_inCount (s t : State) :
    (s.afterAccept t).inCount = t.inCount := rfl

@[simp] theorem afterAccept_outCount (s t : State) :
    (s.afterAccept t).outCount = t.outCount := rfl

@[simp] theorem afterAccept_errCode (s t : State) :
    (s.afterAccept t).errCode = t.errCode := rfl

@[simp] theorem afterAccept_errCmdLo (s t : State) :
    (s.afterAccept t).errCmdLo = t.errCmdLo := rfl

@[simp] theorem afterAccept_errCmdHi (s t : State) :
    (s.afterAccept t).errCmdHi = t.errCmdHi := rfl

@[simp] theorem afterAccept_errPos (s t : State) :
    (s.afterAccept t).errPos = t.errPos := rfl

@[simp] theorem afterAccept_fifo (s t : State) :
    (s.afterAccept t).fifo = s.dropPopped t := rfl

@[simp] theorem afterAccept_irqEn (s t : State) :
    (s.afterAccept t).irqEn = t.irqEn := rfl

@[simp] theorem afterAccept_irqPend (s t : State) :
    (s.afterAccept t).irqPend = t.irqPend := rfl

@[simp] theorem afterAccept_cmdPos (s t : State) :
    (s.afterAccept t).cmdPos = t.cmdPos + 1 := rfl

@[simp] theorem afterAccept_offered (s t : State) :
    (s.afterAccept t).offered = t.offered.tail := rfl

@[simp] theorem afterAccept_edges (s t : State) :
    (s.afterAccept t).edges = t.edges.tail := rfl

/-! ### An edge without a command (R221) -/

@[simp] theorem afterNoAccept_mode (s : State) :
    s.afterNoAccept.mode = s.mode := rfl

@[simp] theorem afterNoAccept_profile (s : State) :
    s.afterNoAccept.profile = s.profile := rfl

@[simp] theorem afterNoAccept_emitIdx (s : State) :
    s.afterNoAccept.emitIdx = s.emitIdx := rfl

@[simp] theorem afterNoAccept_acc (s : State) :
    s.afterNoAccept.acc = s.acc := rfl

@[simp] theorem afterNoAccept_held (s : State) :
    s.afterNoAccept.held = s.held := rfl

@[simp] theorem afterNoAccept_inCount (s : State) :
    s.afterNoAccept.inCount = s.inCount := rfl

@[simp] theorem afterNoAccept_outCount (s : State) :
    s.afterNoAccept.outCount = s.outCount := rfl

@[simp] theorem afterNoAccept_errCode (s : State) :
    s.afterNoAccept.errCode = s.errCode := rfl

@[simp] theorem afterNoAccept_errCmdLo (s : State) :
    s.afterNoAccept.errCmdLo = s.errCmdLo := rfl

@[simp] theorem afterNoAccept_errCmdHi (s : State) :
    s.afterNoAccept.errCmdHi = s.errCmdHi := rfl

@[simp] theorem afterNoAccept_errPos (s : State) :
    s.afterNoAccept.errPos = s.errPos := rfl

@[simp] theorem afterNoAccept_fifo (s : State) :
    s.afterNoAccept.fifo = s.dropPopped s := rfl

@[simp] theorem afterNoAccept_irqEn (s : State) :
    s.afterNoAccept.irqEn = s.irqEn := rfl

@[simp] theorem afterNoAccept_irqPend (s : State) :
    s.afterNoAccept.irqPend = s.irqPend := rfl

@[simp] theorem afterNoAccept_cmdPos (s : State) :
    s.afterNoAccept.cmdPos = s.cmdPos := rfl

@[simp] theorem afterNoAccept_offered (s : State) :
    s.afterNoAccept.offered = s.offered := rfl

@[simp] theorem afterNoAccept_edges (s : State) :
    s.afterNoAccept.edges = s.edges.tail := rfl

end Sys2Proof.Machine
end

