-- ==== Sys2Proof/Laws/Ops.lean ====
section
/-! SUPPORT. What each shared operation does, said once: the regrouping loop in closed form, the emission of
several chunks or bytes, the reverse search, and the cases of a step. -/

namespace Sys2Proof.Machine

/-! ### The regrouping loop -/

theorem and_mask (a n : Nat) : a &&& mask n = a % 2 ^ n := by
  rw [mask, Nat.and_two_pow_sub_one_eq_mod]

/-- The bits of a chunk do not change when higher bits are masked away first. -/
theorem chunk_of_masked (a lo n k : Nat) (h : lo + n ≤ k) : a % 2 ^ k / 2 ^ lo % 2 ^ n = a / 2 ^ lo % 2 ^ n := by
  have hk : 2 ^ k = 2 ^ lo * 2 ^ (k - lo) := by rw [← Nat.pow_add]; congr 1; omega
  rw [hk, Nat.mod_mul_right_div_self]
  exact Nat.mod_mod_of_dvd _ (Nat.pow_dvd_pow 2 (by omega))

/-- The loop of R141 and R165 in closed form: with `h` bits of `a` held and fuel for all of them, it emits
`h / width` chunks, top first, and keeps the low `h % width` bits. -/
theorem drain_spec {width : Nat} (hw : 0 < width) :
    ∀ {fuel a h : Nat}, h ≤ fuel → a < 2 ^ h →
      drain width fuel a h =
        ⟨(List.range (h / width)).map (fun j => a / 2 ^ (h - (j + 1) * width) % 2 ^ width),
          a % 2 ^ (h % width), h % width⟩
  | 0, a, h, hf, ha => by
    obtain rfl : h = 0 := by omega
    have : a = 0 := by simpa using ha
    simp [drain, this]
  | fuel + 1, a, h, hf, ha => by
    rw [drain]
    split
    case isTrue hle =>
      have hlt : a % 2 ^ (h - width) < 2 ^ (h - width) := Nat.mod_lt _ (by positivity)
      simp only [and_mask]
      rw [drain_spec hw (by omega) hlt]
      have hdiv : h / width = (h - width) / width + 1 := by
        rw [Nat.div_eq_sub_div hw hle]
      have hmod : (h - width) % width = h % width := by
        conv_rhs => rw [Nat.mod_eq_sub_mod hle]
      simp only [Drained.mk.injEq]
      refine ⟨?_, ?_, hmod⟩
      · rw [hdiv, List.range_succ_eq_map, List.map_cons, List.map_map]
        congr 1
        · simp [Nat.shiftRight_eq_div_pow]
        · apply List.map_congr_left
          intro j hj
          have hj' : (j + 1) * width ≤ h - width := by
            have := List.mem_range.mp hj
            calc (j + 1) * width ≤ (h - width) / width * width := Nat.mul_le_mul_right _ (by omega)
              _ ≤ h - width := Nat.div_mul_le_self _ _
          have e : h - (j + 1 + 1) * width = h - width - (j + 1) * width := by
            rw [Nat.add_mul (j + 1) 1]; omega
          simp only [Function.comp, Nat.succ_eq_add_one, e]
          exact chunk_of_masked _ _ _ _ (by
            have : (j + 1) * width = j * width + width := by rw [Nat.add_mul]; omega
            omega)
      · rw [hmod]
        refine Nat.mod_mod_of_dvd _ (Nat.pow_dvd_pow 2 ?_)
        rw [← hmod]; exact Nat.mod_le _ _
    case isFalse hle =>
      have h0 : h / width = 0 := Nat.div_eq_of_lt (by omega)
      have h1 : h % width = h := Nat.mod_eq_of_lt (by omega)
      simp [h0, h1, Nat.mod_eq_of_lt ha]

/-- Shifting left and OR-ing in a narrower value is adding it. -/
theorem shift_or_eq (a n v : Nat) (h : v < 2 ^ n) : a <<< n ||| v = a * 2 ^ n + v := by
  rw [Nat.shiftLeft_eq, Nat.mul_comm, Nat.two_pow_add_eq_or_of_lt h]

/-! ### Emission -/

/-- `Emit` in one piece: the item and the count (R140). -/
theorem emitIndex_eq (s : State) (i : Nat) :
    s.emitIndex i =
      { s with fifo := s.fifo ++ [packItem s.profile s.emitIdx i], outCount := s.outCount + 1#32 } := by
  unfold State.emitIndex packItem
  split <;> rfl

/-- Several emissions of a pack job: the items in order, each one counted (R140, R31). -/
theorem emitIndices_eq (is : List Nat) (s : State) :
    is.foldl State.emitIndex s =
      { s with fifo := s.fifo ++ is.map (packItem s.profile s.emitIdx),
               outCount := s.outCount + BitVec.ofNat 32 is.length } := by
  induction is generalizing s with
  | nil => simp
  | cons i is ih =>
    rw [List.foldl_cons, ih, emitIndex_eq]
    simp only [List.map_cons, List.append_assoc, List.cons_append, List.nil_append, List.length_cons]
    congr 1
    rw [BitVec.add_assoc, BitVec.ofNat_add, BitVec.add_comm 1#32]

/-- Several emissions of an unpack job (R160, R31). -/
theorem emitBytes_eq (vs : List Nat) (s : State) :
    vs.foldl State.emitByte s =
      { s with fifo := s.fifo ++ vs.map (fun v => ⟨.byte, BitVec.ofNat 32 v⟩),
               outCount := s.outCount + BitVec.ofNat 32 vs.length } := by
  induction vs generalizing s with
  | nil => simp
  | cons v vs ih =>
    rw [List.foldl_cons, ih]
    simp only [State.emitByte, State.push, State.countOut, List.map_cons, List.append_assoc, List.cons_append,
      List.nil_append, List.length_cons]
    congr 1
    rw [BitVec.add_assoc, BitVec.ofNat_add, BitVec.add_comm 1#32]

/-- The shape every UnpackIndex has, whatever the cursor (R165). -/
theorem unpackIndex_eq (x : Nat) (s : State) :
    unpackIndex x s =
      let d := drain 8 (s.held.toNat + chunkBits s.profile) (s.acc.toNat <<< chunkBits s.profile ||| x)
        (s.held.toNat + chunkBits s.profile)
      { s with fifo := s.fifo ++ d.chunks.map (fun v => ⟨.byte, BitVec.ofNat 32 v⟩),
               outCount := s.outCount + BitVec.ofNat 32 d.chunks.length,
               acc := BitVec.ofNat 18 d.acc, held := BitVec.ofNat 5 d.held } := by
  simp only [unpackIndex, emitBytes_eq, State.setCursor]

/-- The shape every PUSH_BYTE of a pack job has, whatever the cursor (R141). -/
theorem packByte_eq (b : Byte) (s : State) :
    packByte b s =
      let d := drain (chunkBits s.profile) (s.held.toNat + 8) (s.acc.toNat <<< 8 ||| b.toNat) (s.held.toNat + 8)
      { s with fifo := s.fifo ++ d.chunks.map (packItem s.profile s.emitIdx),
               outCount := s.outCount + BitVec.ofNat 32 d.chunks.length,
               acc := BitVec.ofNat 18 d.acc, held := BitVec.ofNat 5 d.held,
               inCount := s.inCount + 1#32 } := by
  simp only [packByte, emitIndices_eq, State.setCursor, State.countIn]

/-! ### The profile table -/

theorem symbolCount_eq_pow (p : Profile) : symbolCount p = 2 ^ chunkBits p := by
  cases p <;> rfl

theorem chunkBits_pos (p : Profile) : 0 < chunkBits p := by
  cases p <;> decide

theorem chunkBits_le (p : Profile) : chunkBits p ≤ 10 := by
  cases p <;> decide

/-! ### The reverse search -/

/-- In a table that is injective on its indices, the search finds exactly the index that holds the symbol. -/
theorem reverseSearch_eq_some_iff {table : Nat → Word32} {count : Nat}
    (inj : ∀ i < count, ∀ j < count, table i = table j → i = j) (sym : Word32) (i : Nat) :
    reverseSearch table count sym = some i ↔ i < count ∧ table i = sym := by
  unfold reverseSearch
  rw [List.find?_range_eq_some]
  simp only [beq_iff_eq, List.mem_range]
  constructor
  · rintro ⟨h1, h2, -⟩
    exact ⟨h2, h1⟩
  · rintro ⟨h1, rfl⟩
    refine ⟨rfl, h1, fun j hj => ?_⟩
    have : table j ≠ table i := fun e => absurd (inj _ (by omega) _ h1 e) (by omega)
    simpa using this

/-- The search misses exactly the symbols the table does not hold (R122). -/
theorem reverseSearch_eq_none_iff (table : Nat → Word32) (count : Nat) (sym : Word32) :
    reverseSearch table count sym = none ↔ ∀ i < count, table i ≠ sym := by
  unfold reverseSearch
  rw [List.find?_eq_none]
  simp only [List.mem_range, beq_iff_eq]

/-- Log entry 2: every table that is injective on the indices 0 .. n-1 is the restriction of a permutation, so
`Config.symbolCode` leaves no table of R29 out. -/
theorem every_injective_table_is_a_permutation (n : Nat) (hn : n ≤ 2 ^ 32) (table : Nat → Word32)
    (inj : ∀ i < n, ∀ j < n, table i = table j → i = j) :
    ∃ e : Equiv.Perm Word32, ∀ i < n, e (BitVec.ofNat 32 i) = table i := by
  classical
  let P : Word32 → Prop := fun x => x.toNat < n
  let g : {x // P x} → Word32 := fun x => table x.1.toNat
  have hg : Function.Injective g := fun x y h =>
    Subtype.ext (BitVec.eq_of_toNat_eq (inj _ x.2 _ y.2 h))
  have : Finite Word32 := inferInstanceAs (Finite (BitVec 32))
  have : Finite {x // P x} := inferInstance
  let e0 : {x // P x} ≃ {y // y ∈ Set.range g} := Equiv.ofInjective g hg
  refine ⟨e0.extendSubtype, fun i hi => ?_⟩
  have hmod : i % 2 ^ 32 = i := Nat.mod_eq_of_lt (by omega)
  have hx : P (BitVec.ofNat 32 i) := by
    change (BitVec.ofNat 32 i).toNat < n
    rw [BitVec.toNat_ofNat, hmod]
    exact hi
  rw [Equiv.extendSubtype_apply_of_mem _ _ hx]
  change table _ = _
  simp only [BitVec.toNat_ofNat, hmod]

/-! ### Acceptance and steps -/

theorem hasRoom_iff (s : State) : s.hasRoom = true ↔ 2 ≤ outDepth - s.fifo.length := by
  unfold State.hasRoom State.fifoLevel
  split <;> simp_all

/-- Executing a word: a command, or the entry of ILLEGAL_CMD (R100). -/
theorem execute_cases {w : CmdWord} {s t : State} (h : execute w s = .next t) :
    (∃ i, decode w = .ok i ∧ exec i s = .next t) ∨
      (∃ r, decode w = .error r ∧ t = raiseError .illegalCmd w s) := by
  unfold execute at h
  split at h
  · exact .inl ⟨_, ‹_›, h⟩
  · cases h
    exact .inr ⟨_, ‹_›, rfl⟩

/-- Everything a step can do when it answers a next state: reset, the acceptance of a word, or an edge without a
command (R51, R52, R230). -/
theorem step_cases {s t : State} (h : step s = .next t) :
    (s.currentEdge.rstN = false ∧ t = s.afterReset) ∨
      (s.currentEdge.rstN = true ∧
        ((∃ w u, s.acceptedWord = some w ∧ execute w s = .next u ∧ t = s.afterAccept u) ∨
          (s.acceptedWord = none ∧ s.heldForGood = false ∧ t = s.afterNoAccept))) := by
  unfold step at h
  split at h
  · cases h
    exact .inl ⟨‹_›, rfl⟩
  · refine .inr ⟨‹_›, ?_⟩
    split at h
    · split at h
      · cases h
        exact .inl ⟨_, _, ‹_›, ‹_›, rfl⟩
      · cases h
      · cases h
    · split at h
      · cases h
      · cases h
        exact .inr ⟨‹_›, Bool.eq_false_iff.mpr ‹_›, rfl⟩

/-- What the acceptance of a word presupposes (R51, R52). -/
theorem acceptedWord_eq_some {s : State} {w : CmdWord} (h : s.acceptedWord = some w) :
    s.currentEdge.rstN = true ∧ s.currentEdge.cmdValid = true ∧ s.hasRoom = true ∧
      ∃ rest, s.offered = w :: rest := by
  unfold State.acceptedWord State.cmdReady State.cmdOnPort at h
  split at h
  · rename_i hr
    split at h
    · rename_i hv
      obtain ⟨h1, h2⟩ := by simpa using hr
      refine ⟨h1, hv, h2, ?_⟩
      cases ho : s.offered with
      | nil => simp [ho] at h
      | cons x rest => simp [ho] at h; exact ⟨rest, by rw [h]⟩
    · cases h
  · cases h

end Sys2Proof.Machine
end

