-- ==== Sys2Proof/Laws/PerInstr.lean ====
section
/-! SUPPORT. Statements made per command: the word of a command matches the row of the opcode map that bears its
mnemonic (spec 30_encoding.md R83). -/

namespace Sys2Proof.Laws.EncodesByRow

open Sys2Proof

/-- The encoder's word for `i` matches mask and match of the row with the mnemonic of `i`. -/
def Statement (i : Instr) : Prop :=
  ∃ r ∈ opcodeTable, r.mnemonic = i.mnemonic ∧ r.matchesWord (encode i) = true

/-- A mask and a pattern compared field by field. -/
theorem matches_of_fields {r : OpcodeRow} {f : Fields} {m p : Fields} (hm : r.mask = wordOf m)
    (hp : r.pattern = wordOf p) (h : f.opc &&& m.opc = p.opc ∧ f.csr &&& m.csr = p.csr ∧
      f.rsv &&& m.rsv = p.rsv ∧ f.opd &&& m.opd = p.opd) : r.matchesWord (wordOf f) = true := by
  have key : (f.opc ++ f.csr ++ f.rsv ++ f.opd) &&& (m.opc ++ m.csr ++ m.rsv ++ m.opd) =
      p.opc ++ p.csr ++ p.rsv ++ p.opd := by
    rw [BitVec.and_append, BitVec.and_append, BitVec.and_append, h.1, h.2.1, h.2.2.1, h.2.2.2]
  rw [OpcodeRow.matchesWord, hm, hp]
  exact beq_iff_eq.mpr key

theorem nop : Statement .nop := 
  ⟨⟨"NOP", 0xFFFFFFFFFFFFFFFF#64, 0x0000000000000000#64⟩, by simp [opcodeTable], rfl, by decide⟩

theorem startPack : Statement .startPack := 
  ⟨⟨"START_PACK", 0xFFFFFFFFFFFFFFFF#64, 0x0100000000000000#64⟩, by simp [opcodeTable], rfl, by decide⟩

theorem startUnpack : Statement .startUnpack := 
  ⟨⟨"START_UNPACK", 0xFFFFFFFFFFFFFFFF#64, 0x0200000000000000#64⟩, by simp [opcodeTable], rfl, by decide⟩

theorem flush : Statement .flush := 
  ⟨⟨"FLUSH", 0xFFFFFFFFFFFFFFFF#64, 0x0300000000000000#64⟩, by simp [opcodeTable], rfl, by decide⟩

theorem abort : Statement .abort := 
  ⟨⟨"ABORT", 0xFFFFFFFFFFFFFFFF#64, 0x0400000000000000#64⟩, by simp [opcodeTable], rfl, by decide⟩

theorem pushByte (b : Byte) : Statement (.pushByte b) :=
  ⟨⟨"PUSH_BYTE", 0xFFFFFFFFFFFFFF00#64, 0x1000000000000000#64⟩, by simp [opcodeTable], rfl,
    matches_of_fields (m := ⟨0xFF#8, 0xFF#8, 0xFFFF#16, 0xFFFFFF00#32⟩) (p := ⟨0x10#8, 0#8, 0#16, 0#32⟩)
      (by decide) (by decide) ⟨by simp [fieldsOfInstr], by simp [fieldsOfInstr], by simp [fieldsOfInstr], by
        apply BitVec.eq_of_getLsbD_eq
        intro i hi
        have : i < 8 → (0xFFFFFF00#32).getLsbD i = false := by
          intro h; interval_cases i <;> decide
        simp only [fieldsOfInstr, BitVec.getLsbD_and, BitVec.getLsbD_setWidth, BitVec.getLsbD_zero]
        by_cases h : i < 8
        · simp [this h]
        · simp [BitVec.getLsbD_of_ge b i (by omega)]⟩⟩

theorem pushSym (sym : Word32) : Statement (.pushSym sym) :=
  ⟨⟨"PUSH_SYM", 0xFFFFFFFF00000000#64, 0x1100000000000000#64⟩, by simp [opcodeTable], rfl,
    matches_of_fields (m := ⟨0xFF#8, 0xFF#8, 0xFFFF#16, 0#32⟩) (p := ⟨0x11#8, 0#8, 0#16, 0#32⟩)
      (by decide) (by decide) ⟨by simp [fieldsOfInstr], by simp [fieldsOfInstr], by simp [fieldsOfInstr], by simp⟩⟩

theorem pushIdx (x : Word32) : Statement (.pushIdx x) :=
  ⟨⟨"PUSH_IDX", 0xFFFFFFFF00000000#64, 0x1200000000000000#64⟩, by simp [opcodeTable], rfl,
    matches_of_fields (m := ⟨0xFF#8, 0xFF#8, 0xFFFF#16, 0#32⟩) (p := ⟨0x12#8, 0#8, 0#16, 0#32⟩)
      (by decide) (by decide) ⟨by simp [fieldsOfInstr], by simp [fieldsOfInstr], by simp [fieldsOfInstr], by simp⟩⟩

theorem lutFwd (x : Word32) : Statement (.lutFwd x) :=
  ⟨⟨"LUT_FWD", 0xFFFFFFFF00000000#64, 0x2000000000000000#64⟩, by simp [opcodeTable], rfl,
    matches_of_fields (m := ⟨0xFF#8, 0xFF#8, 0xFFFF#16, 0#32⟩) (p := ⟨0x20#8, 0#8, 0#16, 0#32⟩)
      (by decide) (by decide) ⟨by simp [fieldsOfInstr], by simp [fieldsOfInstr], by simp [fieldsOfInstr], by simp⟩⟩

theorem lutRev (sym : Word32) : Statement (.lutRev sym) :=
  ⟨⟨"LUT_REV", 0xFFFFFFFF00000000#64, 0x2100000000000000#64⟩, by simp [opcodeTable], rfl,
    matches_of_fields (m := ⟨0xFF#8, 0xFF#8, 0xFFFF#16, 0#32⟩) (p := ⟨0x21#8, 0#8, 0#16, 0#32⟩)
      (by decide) (by decide) ⟨by simp [fieldsOfInstr], by simp [fieldsOfInstr], by simp [fieldsOfInstr], by simp⟩⟩

theorem wrcsr (a : CsrAddr) (v : Word32) : Statement (.wrcsr a v) :=
  ⟨⟨"WRCSR", 0xFF00FFFF00000000#64, 0x3000000000000000#64⟩, by simp [opcodeTable], rfl,
    matches_of_fields (m := ⟨0xFF#8, 0#8, 0xFFFF#16, 0#32⟩) (p := ⟨0x30#8, 0#8, 0#16, 0#32⟩)
      (by decide) (by decide) ⟨by simp [fieldsOfInstr], by simp, by simp [fieldsOfInstr], by simp⟩⟩

end Sys2Proof.Laws.EncodesByRow
end

