-- ==== Sys2Proof/Tests/Slice0.lean ====
section
/-! SUPPORT. Tests of the model against the manual's own words, tables and vectors (spec 30_encoding.md R80 to R87,
95_test_vectors.md), and a witness for the hypotheses of every statement. A vector is named by its id; expected
values come from there. -/

namespace Sys2Proof.Tests

open Sys2Proof Sys2Proof.Machine

/-! ### Helpers -/

/-- The next state of an outcome, if it is one. -/
def nextOf : Host.Outcome State Fault Refusal → Option State
  | .next t => some t
  | .fault _ => none
  | .refused _ => none

/-- The items in the FIFO and the cursor after a command. -/
def itemsAndCursor (o : Host.Outcome State Fault Refusal) : Option (List Item × Nat × Nat) :=
  (nextOf o).map (fun t => (t.fifo, t.acc.toNat, t.held.toNat))

/-- The items in the FIFO and the mode after a command. -/
def itemsAndMode (o : Host.Outcome State Fault Refusal) : Option (List Item × Mode) :=
  (nextOf o).map (fun t => (t.fifo, t.mode))

/-- A small state: mode, profile and cursor as given, raw indices emitted, all else as after reset. -/
def sample (m : Mode) (p : Profile) (a h : Nat) : State :=
  { State.reset with
    mode := m, profile := p, emitIdx := true, acc := BitVec.ofNat 18 a, held := BitVec.ofNat 5 h }

/-- `n` items of no interest. -/
def filler (n : Nat) : List Item :=
  List.replicate n ⟨.byte, 0#32⟩

/-- A state with `n` items in the FIFO, a NOP offered and one edge left at which the host pops or not. -/
def waiting (n : Nat) (pops : Bool) : State :=
  { State.reset with fifo := filler n, offered := [0#64], edges := [⟨true, true, pops⟩] }

/-- A symbol that is in no table of the profile: the permutation's value above every index. -/
def strayOf (p : Profile) : Word32 :=
  Config.symbolCode p 0xFFFFFFFF#32

theorem strayOf_not_inTable (p : Profile) : ¬ inTable p (strayOf p) := by
  rintro ⟨i, hi, h⟩
  have h1 := congrArg BitVec.toNat ((Config.symbolCode p).injective h)
  have h2 : symbolCount p ≤ 1024 := by cases p <;> decide
  simp only [BitVec.toNat_ofNat] at h1
  omega

theorem waiting_full_has_no_room (k : Nat) (b : Bool) (h : outDepth ≤ k + 1) : (waiting k b).hasRoom = false := by
  rw [← Bool.not_eq_true, hasRoom_iff]
  simp [waiting, filler]
  omega

/-! ### Well-formedness refuses what R84 and R86 refuse -/

theorem test_illformed_rsv : Fields.legal ⟨0x12#8, 0#8, 1#16, 0#32⟩ = false := by decide
theorem test_illformed_csr : Fields.legal ⟨0x11#8, 1#8, 0#16, 0#32⟩ = false := by decide
theorem test_illformed_csr_of_plain : Fields.legal ⟨0x04#8, 4#8, 0#16, 0#32⟩ = false := by decide
theorem test_illformed_csr_of_byte : Fields.legal ⟨0x10#8, 1#8, 0#16, 0#32⟩ = false := by decide
theorem test_illformed_opd_of_plain : Fields.legal ⟨0x00#8, 0#8, 0#16, 1#32⟩ = false := by decide
theorem test_illformed_opd_of_byte : Fields.legal ⟨0x10#8, 0#8, 0#16, 0x100#32⟩ = false := by decide
theorem test_illformed_opcode : Fields.legal ⟨0x05#8, 0#8, 0#16, 0#32⟩ = false := by decide
theorem test_illformed_csr_number : (CsrRef.number 256).wellFormed = false := by decide
theorem test_illformed_operand_lines :
    [AsmLine.pushB 256, .pushS (2 ^ 32), .pushI (2 ^ 32), .lutF (2 ^ 32), .lutR (2 ^ 32), .wrcsr (.number 256) 0,
      .wrcsr (.named .config) (2 ^ 32), .clrIrq (2 ^ 32), .enIrq (2 ^ 32), .pack [1, 256], .unpack [2 ^ 32],
      .unpackI [0, 2 ^ 32]].map AsmLine.assemble = List.replicate 12 none := by decide

/-! ### Decoding, a word per command, written out from R80, R83 and R86 -/

theorem test_decode_nop : decode 0x0000000000000000#64 = .ok .nop := rfl
theorem test_decode_start_pack : decode 0x0100000000000000#64 = .ok .startPack := rfl
theorem test_decode_start_unpack : decode 0x0200000000000000#64 = .ok .startUnpack := rfl
theorem test_decode_flush : decode 0x0300000000000000#64 = .ok .flush := rfl
theorem test_decode_abort : decode 0x0400000000000000#64 = .ok .abort := rfl
theorem test_decode_push_byte : decode 0x1000000000000048#64 = .ok (.pushByte 0x48#8) := rfl
theorem test_decode_push_sym : decode 0x110000000001003F#64 = .ok (.pushSym 0x0001003F#32) := rfl
theorem test_decode_push_idx : decode 0x12000000FFFFFFFF#64 = .ok (.pushIdx 0xFFFFFFFF#32) := rfl
theorem test_decode_lut_fwd : decode 0x2000000000000003#64 = .ok (.lutFwd 3#32) := rfl
theorem test_decode_lut_rev : decode 0x2100000000030000#64 = .ok (.lutRev 0x00030000#32) := rfl
theorem test_decode_wrcsr : decode 0x300B000080000001#64 = .ok (.wrcsr 0x0B#8 0x80000001#32) := rfl

/-- V-ENC-2 to V-ENC-8, V-ENC-10 to V-ENC-14, V-ENC-16: the illegal words, each refused by name. -/
theorem test_decode_illegal_words :
    [0x0000000000000001#64, 0x0500000000000000#64, 0x1300000000000000#64, 0x2F00000000000000#64,
      0x3100000000000000#64, 0xFFFFFFFFFFFFFFFF#64, 0x1000000000000100#64, 0x1101000000000000#64,
      0x1200000100000000#64, 0x0300800000000000#64, 0x0404000000000000#64, 0x2180000000000000#64,
      0x3001000100000000#64].map (fun w => match decode w with
        | .ok _ => none
        | .error e => some e) =
    [some .nonzeroOpd, some .reservedOpcode, some .reservedOpcode, some .reservedOpcode, some .reservedOpcode,
      some .reservedOpcode, some .nonzeroOpd, some .nonzeroCsr, some .nonzeroRsv, some .nonzeroRsv,
      some .nonzeroCsr, some .nonzeroCsr, some .nonzeroRsv] := by decide

theorem test_table_word : decodeTableWord 64 0x30FF000000000000 = some (.wrcsr 0xFF#8 0#32) := rfl
theorem test_table_word_illegal : decodeTableWord 64 0x0500000000000000 = none := rfl

/-! ### Assembler text (R86, R87; programs of 95_test_vectors.md) -/

theorem test_text_wrcsr : assembleText "WRCSR CONFIG, 0x13   ; Large, raw" = some [0x3001000000000013#64] := by decide
theorem test_text_setprof_idx : assembleText "SETPROF Small, IDX" = some [0x3001000000000011#64] := by decide
theorem test_text_pack : assembleText "PACK 0xAB, 205" =
    some [0x0100000000000000#64, 0x10000000000000AB#64, 0x10000000000000CD#64, 0x0300000000000000#64] := by decide
theorem test_text_refuses_wide_byte : assembleText "PUSH.B 256" = none := by decide

/-! ### One step of each command -/

/-- V-CTL-2. -/
theorem test_nop_in_error : itemsAndMode (exec .nop (sample .error .standard 0 0)) = some ([], .error) := by decide

/-- V-CTL-3 and the cursor of R102, from ERROR with a cursor left over. -/
theorem test_start_pack : (nextOf (exec .startPack (sample .error .tiny 0x3F 6))).map
    (fun t => (t.mode, t.acc, t.held)) = some (.pack, 0#18, 0#5) := by decide

/-- V-CTL-7: a START in an open job; IN_COUNT stays and is the position. -/
theorem test_start_unpack_in_job : (nextOf (exec .startUnpack { sample .pack .standard 0 0 with inCount := 2#32 })).map
    (fun t => (t.fifo, t.errCmdHi, t.errPos, t.inCount)) =
    some ([⟨.err, 4#32⟩], 0x02000000#32, 2#32, 2#32) := by decide

/-- V-SRC-3 step 4: the remaining bits high, the pad low. -/
theorem test_flush_pack : itemsAndCursor (exec .flush { sample .pack .tiny 3 2 with outCount := 1#32 }) =
    some ([⟨.idx, 0x30#32⟩, ⟨.jobEnd, 2#32⟩], 0, 0) := by decide

/-- V-UP-4 step 5: nonzero leftover bits are dropped. -/
theorem test_flush_unpack : itemsAndMode (exec .flush { sample .unpack .tiny 0xF 4 with outCount := 1#32 }) =
    some ([⟨.jobEnd, 1#32⟩], .idle) := by decide

/-- V-CTL-9 step 4. -/
theorem test_abort_in_job : itemsAndCursor (exec .abort { sample .pack .tiny 3 2 with outCount := 1#32 }) =
    some ([⟨.aborted, 1#32⟩], 0, 0) := by decide

/-- V-CTL-9 steps 5 and V-UP-9 step 6: ABORT in ERROR pushes nothing. -/
theorem test_abort_in_error : itemsAndMode (exec .abort (sample .error .tiny 0x3F 6)) = some ([], .idle) := by decide

/-- V-PK-1 step 5: two chunks from one byte. -/
theorem test_push_byte_two_chunks : itemsAndCursor (exec (.pushByte 0x56#8) (sample .pack .tiny 4 4)) =
    some ([⟨.idx, 0x11#32⟩, ⟨.idx, 0x16#32⟩], 0, 0) := by decide

/-- V-PK-7 step 4 with EMIT_IDX = 0: under Large, the symbol of the index 0x37A. -/
theorem test_push_byte_large_symbol :
    itemsAndCursor (exec (.pushByte 0xAD#8) { sample .pack .large 0xDE 8 with emitIdx := false }) =
      some ([⟨.sym, symtab .large 0x37A⟩], 0x2D, 6) := rfl

/-- V-UP-3 step 6: two bytes from one index. -/
theorem test_push_idx_two_bytes : itemsAndCursor (exec (.pushIdx 768#32) (sample .unpack .large 0x3B 6)) =
    some ([⟨.byte, 0xEF#32⟩, ⟨.byte, 0#32⟩], 0, 0) := by decide

/-- V-UP-7 step 4: the first index out of range, not truncated; the cursor stays. -/
theorem test_push_idx_out_of_range : itemsAndCursor (exec (.pushIdx 64#32) (sample .unpack .tiny 0x3F 6)) =
    some ([⟨.err, 2#32⟩], 0x3F, 6) := by decide

/-- R165 by hand: the bits 111111 and the index 0 of the table's first symbol give the byte 0xFC and 0000. -/
theorem test_push_sym_first_symbol :
    itemsAndCursor (exec (.pushSym (symtab .tiny 0)) (sample .unpack .tiny 0x3F 6)) =
      some ([⟨.byte, 0xFC#32⟩], 0, 4) := by
  have h : revLookup .tiny (symtab .tiny 0) = some 0 := by
    rw [revLookup, reverseSearch, show symbolCount .tiny = 63 + 1 from rfl, List.range_succ_eq_map]
    simp
  simp only [exec, execPushSym, sample, h]
  decide

/-- V-UP-9 step 3 and V-SRC-6: an unknown symbol. -/
theorem test_push_sym_unknown :
    (nextOf (exec (.pushSym (strayOf .standard)) (sample .unpack .standard 0 0))).map State.fifo =
      some [⟨.err, 1#32⟩] := by
  have h : revLookup .standard (strayOf .standard) = none := by
    rw [revLookup, reverseSearch_eq_none_iff]
    exact fun i hi e => strayOf_not_inTable .standard ⟨i, hi, e⟩
  simp only [exec, execPushSym, sample, h]
  rfl

/-- V-LUT-1: the last hit of Tiny is its index 63. -/
theorem test_lut_fwd_last : (nextOf (exec (.lutFwd 63#32) (sample .idle .tiny 0 0))).map State.fifo =
    some [⟨.lut, symtab .tiny 63⟩] := rfl

/-- V-LUT-1: the first miss of Tiny. -/
theorem test_lut_fwd_first_miss : (nextOf (exec (.lutFwd 64#32) (sample .idle .tiny 0 0))).map State.fifo =
    some [⟨.lutMiss, 0x40#32⟩] := rfl

/-- V-LUT-5: the search under the canonical fill of Tiny with the example base, at its edges. -/
theorem test_reverse_search_tiny :
    [0x00010000#32, 0x0001003F#32, 0x00010040#32, 0x0000FFFF#32].map
      (reverseSearch (canonicalFill 0x00010000#32) (symbolCount .tiny)) =
      [some 0, some 63, none, none] := by decide

/-- V-LUT-5: a miss answers the operand under its own tag. -/
theorem test_lut_rev_miss : (nextOf (exec (.lutRev (strayOf .tiny)) (sample .idle .tiny 0 0))).map State.fifo =
    some [⟨.lutMiss, strayOf .tiny⟩] := by
  have h : revLookup .tiny (strayOf .tiny) = none := by
    rw [revLookup, reverseSearch_eq_none_iff]
    exact fun i hi e => strayOf_not_inTable .tiny ⟨i, hi, e⟩
  simp only [exec, execLutRev, lutRevAnswer, sample, h]
  rfl

/-- V-CSR-2: the CONFIG words after the writes 7, 0x1F, 0xFFFFFFFF, 0x20, 3. -/
theorem test_wrcsr_config : [7#32, 0x1F#32, 0xFFFFFFFF#32, 0x20#32, 3#32].map (fun v =>
      (nextOf (exec (.wrcsr 0x01#8 v) State.reset)).map (fun t => (t.csrRead 0x01#8, t.csrRead 0x0C#8))) =
    [some (2#32, 0x01000008#32), some (0x12#32, 0x01000008#32), some (0x12#32, 0x01000008#32),
      some (0#32, 0x00400006#32), some (3#32, 0x0400000A#32)] := by decide

/-- V-CSR-4: writes to read-only and unimplemented addresses. -/
theorem test_wrcsr_illegal : [0x00#8, 0x02#8, 0x0C#8, 0x0D#8, 0xFF#8].map (fun a =>
      (nextOf (exec (.wrcsr a 1#32) State.reset)).map (fun t => (t.errCode, t.errCmdHi.extractLsb' 16 8))) =
    [some (5#8, 0x00#8), some (5#8, 0x02#8), some (5#8, 0x0C#8), some (5#8, 0x0D#8), some (5#8, 0xFF#8)] := by
  decide

/-! ### CSRs, interrupt, priority -/

/-- V-CSR-1. -/
theorem test_csr_after_reset :
    [0x00#8, 0x01#8, 0x03#8, 0x04#8, 0x05#8, 0x06#8, 0x07#8, 0x08#8, 0x09#8, 0x0A#8, 0x0B#8, 0x0C#8, 0x0D#8,
      0xFF#8].map State.reset.csrRead =
    [0x454D4301#32, 2#32, 0#32, 0#32, 0#32, 0#32, 0#32, 0#32, 0#32, 0#32, 0#32, 0x01000008#32, 0#32, 0#32] := by
  decide

/-- V-CSR-1 and V-CSR-6: STATUS after reset, and in a Large job with 8 bits held. -/
theorem test_status : State.reset.csrRead 0x02#8 = 0x01000000#32 ∧
    (sample .pack .large 1 8).csrRead 0x02#8 = 0x01000801#32 := ⟨rfl, rfl⟩

/-- The table of section 2.10: pending but not enabled, then enabled. -/
theorem test_irq : { State.reset with irqPend := 0b01#2, irqEn := 0b10#2 }.irq = false ∧
    { State.reset with irqPend := 0b01#2, irqEn := 0b11#2 }.irq = true := by decide

/-- V-ERR-3, V-ERR-4, V-ERR-5: illegal before sequence, illegal before discard, discard. -/
theorem test_priority :
    itemsAndMode (execute 0x3001000100000000#64 (sample .pack .standard 0 0)) = some ([⟨.err, 3#32⟩], .error) ∧
    itemsAndMode (execute 0x1000000000000100#64 (sample .error .standard 0 0)) = some ([⟨.err, 3#32⟩], .error) ∧
    itemsAndMode (execute 0x1000000000000001#64 (sample .error .standard 0 0)) = some ([], .error) := by decide

/-! ### Ports -/

/-- A word placed by `withFetchWord` is the one the next step runs (V-CTL-6). -/
theorem test_fetch_word_runs :
    (nextOf (step (State.reset.withFetchWord 64 0x0300000000000000))).map
      (fun t => (t.fifo, t.mode, t.errCmdHi, t.cmdPos)) =
    some ([⟨.err, 4#32⟩], .error, 0x03000000#32, 1) := rfl

/-- V-FIFO-1: with one entry free the command waits, and the pop at that edge takes the head (R52, R53). -/
theorem test_pop_while_held : ∃ t, step (waiting outDepth true) = .next t ∧ t.offered = [0#64] ∧
    t.fifo.length + 1 = outDepth := by
  have h := waiting_full_has_no_room outDepth true (by omega)
  refine ⟨(waiting outDepth true).afterNoAccept, ?_, rfl, ?_⟩
  · have hc : (waiting outDepth true).acceptedWord = none := by
      simp [State.acceptedWord, State.cmdReady, h]
    unfold step
    rw [hc]
    rfl
  · simp [State.afterNoAccept, State.dropPopped, State.poppedItem, State.resultOnPort, State.currentEdge, waiting,
      filler, outDepth, List.replicate_succ]

/-- V-RST-1: an edge in reset gives the reset values and an empty FIFO; the host's word stays. -/
theorem test_reset_edge :
    step { sample .error .large 5 3 with fifo := filler 2, offered := [1#64], edges := [⟨false, true, true⟩] } =
      .next { State.reset with offered := [1#64] } := rfl

/-! ### Witnesses: for every statement with hypotheses, a state and operands that meet them, clause by clause -/

theorem witness_DecodedWordIsTheWordOfItsInstruction :
    decode 0x30FF000000000000#64 = .ok (.wrcsr 0xFF#8 0#32) ∧ decode 0x10000000000000FF#64 = .ok (.pushByte 0xFF#8) :=
  ⟨rfl, rfl⟩

theorem witness_ExactlyLegalWordsDecodeAndOthersRaiseIllegalCmd :
    legal 0x0000000000000001#64 = false ∧ legal 0x30FF000000000000#64 = true := by decide

theorem witness_OpcodeMapRowsSpellTheCommandsWithoutOverlap :
    (∃ r ∈ opcodeTable, r.matchesWord 0x30FF0000FFFFFFFF#64 = true) ∧
    decode 0x30FF0000FFFFFFFF#64 = .ok (.wrcsr 0xFF#8 0xFFFFFFFF#32) := ⟨by decide, rfl⟩

theorem witness_ReservedEncodingsRaiseIllegalCmdAndUnwritableCsrsDoNot :
    (∀ w ∈ [0x05#8, 0x0F#8, 0x13#8, 0x1F#8, 0x22#8, 0x2F#8, 0x31#8, 0xFF#8],
      (let o := w.toNat;
        (0x05 ≤ o ∧ o ≤ 0x0F) ∨ (0x13 ≤ o ∧ o ≤ 0x1F) ∨ (0x22 ≤ o ∧ o ≤ 0x2F) ∨ 0x31 ≤ o)) ∧
    (0x3001000100000000#64).extractLsb' 32 16 ≠ 0#16 ∧ (0x0300800000000000#64).extractLsb' 32 16 ≠ 0#16 ∧
    ((0x1101000000000000#64).extractLsb' 56 8 ≠ 0x30#8 ∧ (0x1101000000000000#64).extractLsb' 48 8 ≠ 0#8) ∧
    (∀ a ∈ [0x00#8, 0x02#8, 0x09#8, 0x0C#8, 0x0D#8, 0xFF#8], a ≠ 0x01#8 ∧ a ≠ 0x0A#8 ∧ a ≠ 0x0B#8) := by decide

/-- Each word made of an operand at the edge of its range, and the first one refused. -/
theorem witness_AssemblerMakesTheWordOfEachLineOrRefusesIt :
    (AsmLine.pushB 255).assemble = some [0x10000000000000FF#64] ∧ legal 0x10000000000000FF#64 = true ∧
    (AsmLine.pushB 256).assemble = none ∧
    (AsmLine.wrcsr (.number 255) 0xFFFFFFFF).assemble = some [0x30FF0000FFFFFFFF#64] ∧
    (AsmLine.wrcsr (.number 256) 0).assemble = none ∧
    (AsmLine.wrcsr (.named .profileInfo) 1).assemble = some [0x300C000000000001#64] := by decide

theorem witness_PseudoInstructionsMakeTheWordsOfTheirExpansion :
    (AsmLine.pack []).assemble = some [0x0100000000000000#64, 0x0300000000000000#64] ∧
    (AsmLine.unpackI [0xFFFFFFFF]).assemble =
      some [0x0200000000000000#64, 0x12000000FFFFFFFF#64, 0x0300000000000000#64] ∧
    (AsmLine.unpack [0, 2 ^ 32]).assemble = none := by decide

/-- The state of the third clause: a NOP held at a full FIFO, at an edge at which nothing is popped. -/
theorem witness_NopChangesNothingAndWaitsForRoomLikeAnyCommand :
    (waiting outDepth false).offered = encode .nop :: [] ∧ (waiting outDepth false).currentEdge.rstN = true ∧
    (waiting outDepth false).hasRoom = false ∧
    step (waiting outDepth false) = .next (waiting outDepth false).afterNoAccept := by
  have h := waiting_full_has_no_room outDepth false (by omega)
  refine ⟨by decide, rfl, h, ?_⟩
  have hc : (waiting outDepth false).acceptedWord = none := by
    simp [State.acceptedWord, State.cmdReady, h]
  unfold step
  rw [hc]
  rfl

theorem witness_StartPackOpensPackJobUnlessOneIsOpen :
    (sample .idle .tiny 0 0).mode = .idle ∧ (sample .error .tiny 0 0).mode = .error ∧
    (sample .pack .tiny 0 0).mode = .pack ∧ (sample .unpack .tiny 0 0).mode = .unpack := by decide

theorem witness_StartUnpackOpensUnpackJobUnlessOneIsOpen :
    (sample .idle .large 0 0).mode = .idle ∧ (sample .error .large 3 2).mode = .error ∧
    (sample .pack .large 511 9).mode = .pack ∧ (sample .unpack .large 127 7).mode = .unpack := by decide

theorem witness_FlushEndsTheOpenJobAndPadsTheFinalChunk :
    ((sample .pack .tiny 0 0).mode = .pack ∧ (sample .pack .tiny 0 0).held = 0#5) ∧
    ((sample .pack .large 511 9).mode = .pack ∧
      (sample .pack .large 511 9).cursorBelow (chunkBits (sample .pack .large 511 9).profile) ∧
      (sample .pack .large 511 9).held ≠ 0#5) ∧
    ((sample .pack .tiny 1 1).cursorBelow (chunkBits (sample .pack .tiny 1 1).profile) ∧
      (sample .pack .tiny 1 1).held ≠ 0#5) ∧
    (sample .unpack .large 127 7).mode = .unpack ∧ (sample .idle .tiny 0 0).mode = .idle ∧
    (sample .error .tiny 0 0).mode = .error := by decide

theorem witness_AbortReturnsToIdleAndReportsAnOpenJob :
    (sample .pack .tiny 3 2).mode = .pack ∧ (sample .unpack .tiny 3 2).mode = .unpack ∧
    (sample .idle .tiny 0 0).mode = .idle ∧ (sample .error .tiny 3 2).mode = .error ∧
    (State.reset.mode = .idle ∧ State.reset.cursorOk) := ⟨rfl, rfl, rfl, rfl, rfl, rfl, rfl⟩

theorem witness_ModeAfterEveryCommandIsThatOfTheModeTable :
    (∃ t, execute 0x0100000000000000#64 State.reset = .next t) ∧ decode 0x0100000000000000#64 = .ok .startPack ∧
    (∃ t, execute 0x0500000000000000#64 State.reset = .next t) ∧
    decode 0x0500000000000000#64 = .error .reservedOpcode := ⟨⟨_, rfl⟩, rfl, ⟨_, rfl⟩, rfl⟩

theorem witness_EveryCommandPushesAtMostItsBoundOfItems :
    State.reset.cursorOk ∧
    execute 0x0500000000000000#64 State.reset = .next (raiseError .illegalCmd 0x0500000000000000#64 State.reset) ∧
    (∃ t, execute (encode .abort) State.reset = .next t) ∧
    (∃ t, execute (encode (.lutFwd 64#32)) State.reset = .next t) ∧
    (∃ t, execute (encode .startPack) State.reset = .next t) ∧ decode (encode .startPack) = .ok .startPack ∧
    commandError State.reset .startPack = none ∧
    (∃ t, execute (encode (.wrcsr 0x0B#8 3#32)) State.reset = .next t) ∧
    commandError State.reset (.wrcsr 0x0B#8 3#32) = none :=
  ⟨⟨rfl, rfl⟩, rfl, ⟨_, rfl⟩, ⟨_, rfl⟩, ⟨_, rfl⟩, rfl, by decide, ⟨_, rfl⟩, by decide⟩

theorem witness_AnOpenJobEndsWithExactlyOneTerminator :
    (sample .pack .tiny 3 2).mode.jobOpen = true ∧
    (∃ t, execute (encode (.pushByte 0xFF#8)) (sample .pack .tiny 3 2) = .next t ∧ t.mode = .pack) ∧
    (∃ t, execute (encode .flush) (sample .pack .tiny 3 2) = .next t ∧ t.mode = .idle) ∧
    (∃ t, execute (encode .abort) (sample .pack .tiny 3 2) = .next t ∧ t.mode = .idle) ∧
    (∃ t, execute (encode .startPack) (sample .pack .tiny 3 2) = .next t ∧ t.mode = .error) :=
  ⟨rfl, ⟨_, rfl, rfl⟩, ⟨_, rfl, rfl⟩, ⟨_, rfl, rfl⟩, ⟨_, rfl, rfl⟩⟩

theorem witness_SymbolTableIsInjectiveAndReverseSearchInvertsIt :
    63 < symbolCount .tiny ∧ 1023 < symbolCount .large ∧ symtab .large 1023 = symtab .large 1023 :=
  ⟨by simp [symbolCount], by simp [symbolCount], Eq.refl _⟩

theorem witness_LutFwdAnswersTheSymbolOrAMissInEveryMode :
    (63#32).toNat < symbolCount (sample .idle .tiny 0 0).profile ∧
    symbolCount (sample .idle .tiny 0 0).profile ≤ (64#32).toNat := by decide

theorem witness_LutRevAnswersTheIndexOrAMissInEveryMode :
    1023 < symbolCount (sample .pack .large 0 0).profile ∧
    ¬ inTable (sample .pack .large 0 0).profile (strayOf .large) := ⟨by decide, strayOf_not_inTable .large⟩

theorem witness_PushByteEmitsTheTopChunksAndKeepsTheRest :
    ((sample .pack .large 511 9).mode = .pack ∧
      (sample .pack .large 511 9).cursorBelow (chunkBits (sample .pack .large 511 9).profile)) ∧
    ((sample .pack .tiny 31 5).mode = .pack ∧
      (sample .pack .tiny 31 5).cursorBelow (chunkBits (sample .pack .tiny 31 5).profile)) ∧
    (sample .idle .tiny 0 0).mode = .idle ∧ (sample .unpack .tiny 0 0).mode = .unpack ∧
    (sample .error .tiny 0 0).mode = .error ∧
    ((0x1000000000000100#64).extractLsb' 56 8 = 0x10#8 ∧ (0x1000000000000100#64).extractLsb' 8 24 ≠ 0#24) := by
  decide

theorem witness_CursorAfterBytesHoldsTheUnemittedTailOfTheStream :
    (sample .idle .large 0 0).mode.jobOpen = false ∧ (sample .error .tiny 3 2).mode.jobOpen = false := ⟨rfl, rfl⟩

theorem witness_PackJobRegroupsTheByteStreamMostSignificantBitFirst :
    (sample .idle .small 0 0).mode.jobOpen = false ∧ (sample .error .tiny 3 2).mode.jobOpen = false := ⟨rfl, rfl⟩

theorem witness_PackJobItemsDependOnlyOnConfigAndBytes :
    (sample .idle .small 0 0).mode.jobOpen = false ∧ (sample .error .small 3 2).mode.jobOpen = false ∧
    (sample .idle .small 0 0).profile = (sample .error .small 3 2).profile ∧
    (sample .idle .small 0 0).emitIdx = (sample .error .small 3 2).emitIdx := ⟨rfl, rfl, rfl, rfl⟩

/-- V-SRC-3, V-PK-9 and V-RT-L4: each job runs, so with itself it gives both runs of the first two clauses. -/
theorem witness_PackingIsInjectiveExceptForLargeWithAnEightBitPad :
    ((sample .idle .tiny 0 0).mode.jobOpen = false ∧ (sample .idle .tiny 0 0).profile ≠ .large ∧
      ∃ t, runInstrs (packJob [0xFF#8]) (sample .idle .tiny 0 0) = .next t ∧
        t.fifo = [⟨.idx, 0x3F#32⟩, ⟨.idx, 0x30#32⟩, ⟨.jobEnd, 2#32⟩]) ∧
    ([0xFF#8].length % 5 ≠ 4 ∧ ∃ t, runInstrs (packJob [0xFF#8]) (sample .idle .large 0 0) = .next t ∧
      t.fifo = [⟨.idx, 1020#32⟩, ⟨.jobEnd, 1#32⟩]) ∧
    ([1#8, 2#8, 3#8, 4#8].length % 5 = 4 ∧
      ∃ t, runInstrs (packJob [1#8, 2#8, 3#8, 4#8]) (sample .idle .large 0 0) = .next t ∧
        t.fifo = [⟨.idx, 4#32⟩, ⟨.idx, 32#32⟩, ⟨.idx, 193#32⟩, ⟨.idx, 0#32⟩, ⟨.jobEnd, 4#32⟩]) ∧
    ((sample .idle .large 0 0).mode.jobOpen = false ∧ (sample .idle .large 0 0).profile = .large ∧
      [1#8, 2#8, 3#8, 4#8].length % 5 = 4) :=
  ⟨⟨rfl, by decide, _, rfl, rfl⟩, ⟨by decide, _, rfl, rfl⟩, ⟨rfl, _, rfl, rfl⟩, rfl, rfl, rfl⟩

theorem witness_PushIdxEmitsTheTopBytesAndKeepsTheRest :
    ((sample .unpack .large 127 7).mode = .unpack ∧ (sample .unpack .large 127 7).cursorBelow 8 ∧
      (1023#32).toNat < symbolCount (sample .unpack .large 127 7).profile) ∧
    symbolCount (sample .unpack .large 127 7).profile ≤ (1024#32).toNat ∧
    (sample .idle .tiny 0 0).mode = .idle ∧ (sample .pack .tiny 0 0).mode = .pack ∧
    (sample .error .tiny 0 0).mode = .error := by decide

theorem witness_PushSymUnpacksTheIndexOfAKnownSymbol :
    ((sample .unpack .large 127 7).mode = .unpack ∧ (sample .unpack .large 127 7).cursorBelow 8 ∧
      1023 < symbolCount (sample .unpack .large 127 7).profile) ∧
    ¬ inTable (sample .unpack .large 127 7).profile (strayOf .large) ∧
    (sample .idle .tiny 0 0).mode = .idle ∧ (sample .pack .tiny 0 0).mode = .pack ∧
    (sample .error .tiny 0 0).mode = .error :=
  ⟨by decide, strayOf_not_inTable .large, rfl, rfl, rfl⟩

theorem witness_UnpackFlushIgnoresTheLeftoverBits : (sample .unpack .tiny 0xF 4).mode = .unpack := rfl

theorem witness_UnpackJobRegroupsTheIndexStreamMostSignificantBitFirst :
    (sample .idle .tiny 0 0).mode.jobOpen = false ∧
    ∀ c ∈ [(false, 63), (true, 48)], c.2 < symbolCount (sample .idle .tiny 0 0).profile :=
  ⟨rfl, by simp [sample, symbolCount]⟩

theorem witness_UnpackingAPackedJobGivesTheBytesBackButForTheLargePad :
    (sample .idle .large 0 0).mode.jobOpen = false ∧ State.reset.mode.jobOpen = false := ⟨rfl, rfl⟩

theorem witness_WrcsrWritesTheThreeWritableRegistersOnly :
    State.reset.mode = .idle ∧ (sample .error .tiny 0 0).mode = .error ∧ (sample .pack .tiny 0 0).mode = .pack ∧
    (sample .unpack .tiny 0 0).mode = .unpack ∧
    (∀ a ∈ [0x00#8, 0x02#8, 0x09#8, 0x0C#8, 0x0D#8, 0xFF#8], a ≠ 0x01#8 ∧ a ≠ 0x0A#8 ∧ a ≠ 0x0B#8) := by decide

theorem witness_ConfigReadsBackTheWrittenProfileOrStandard :
    State.reset.mode = .idle ∧ (sample .error .tiny 0 0).mode = .error := ⟨rfl, rfl⟩

theorem witness_CsrReadGivesTheMappedValueAtEveryAddress :
    { State.reset with fifo := filler 31 }.fifo.length ≤ 31 ∧ 0x0D ≤ (0x0D#8).toNat ∧ 0x0D ≤ (0xFF#8).toNat := by
  decide

theorem witness_ConfigChangesOnlyByWrcsrOutsideAJob :
    ∃ t, execute (encode (.wrcsr 0x01#8 3#32)) State.reset = .next t ∧ t.profile ≠ State.reset.profile :=
  ⟨_, rfl, by decide⟩

theorem witness_CountersCountDataCommandsAndDataItems :
    (∃ t, exec .startPack State.reset = .next t ∧ isStart .startPack = true ∧ t.mode ≠ .error) ∧
    (∃ t, exec (.pushByte 0x56#8) (sample .pack .tiny 4 4) = .next t ∧ isStart (.pushByte 0x56#8) = false ∧
      isDataCommand (.pushByte 0x56#8) = true ∧ t.mode ≠ .error) ∧
    (∃ t, exec .startPack (sample .pack .tiny 4 4) = .next t ∧ t.mode = .error) :=
  ⟨⟨_, rfl, rfl, by decide⟩, ⟨_, rfl, rfl, rfl, by decide⟩, ⟨_, rfl, rfl⟩⟩

theorem witness_ErrorsAreRaisedInTheOrderOfPriority :
    legal 0x3001000100000000#64 = false ∧
    (decode (encode .flush) = .ok .flush ∧ (sample .error .tiny 0 0).mode = .error ∧
      isDiscardedInError .flush = true) ∧
    (decode (encode (.wrcsr 0x00#8 0#32)) = .ok (.wrcsr 0x00#8 0#32) ∧
      isDiscardedInError (.wrcsr 0x00#8 0#32) = false ∧
      commandError (sample .pack .tiny 0 0) (.wrcsr 0x00#8 0#32) = some .illegalCsr) ∧
    (decode (encode (.wrcsr 0x0B#8 3#32)) = .ok (.wrcsr 0x0B#8 3#32) ∧
      commandError (sample .pack .tiny 0 0) (.wrcsr 0x0B#8 3#32) = none) :=
  ⟨by decide, ⟨rfl, rfl, by decide⟩, ⟨rfl, by decide, by decide⟩, rfl, by decide⟩

theorem witness_ErrorRegistersChangeOnlyByErrorEntry :
    (State.reset.withFetchWord 64 0x0300000000000000).currentEdge.rstN = true ∧
    ∃ t, step (State.reset.withFetchWord 64 0x0300000000000000) = .next t ∧
      t.errCode ≠ (State.reset.withFetchWord 64 0x0300000000000000).errCode := by
  refine ⟨rfl, _, rfl, ?_⟩
  show 0x04#8 ≠ 0x00#8
  decide

theorem witness_DataCommandsAreDiscardedInError : (sample .error .large 511 9).mode = .error := rfl

theorem witness_OnlyStartAndAbortLeaveErrorAndTheRecordStays :
    (sample .error .tiny 3 2).mode = .error ∧
    ∃ t, execute (encode .abort) (sample .error .tiny 3 2) = .next t ∧ t.mode ≠ .error :=
  ⟨rfl, _, rfl, by decide⟩

theorem witness_NestedErrorOverwritesTheRecordAndAbortStillReturns :
    (sample .error .tiny 3 2).mode = .error ∧ legal 0x1000000000000100#64 = false ∧
    ∃ a v, 0x3003000000000000#64 = encode (.wrcsr a v) ∧ a ≠ 0x01#8 ∧ a ≠ 0x0A#8 ∧ a ≠ 0x0B#8 :=
  ⟨rfl, by decide, 0x03#8, 0#32, by decide, by decide, by decide, by decide⟩

theorem witness_PendingBitsAreSetByTheirEventsAndClearedByWritingOne :
    (∃ t, execute (encode .flush) State.reset = .next t ∧ State.reset.irqPend.getLsbD 0 = false ∧
      t.irqPend.getLsbD 0 = true) ∧
    (∃ t, execute (encode .flush) (sample .pack .tiny 0 0) = .next t ∧ t.irqPend.getLsbD 1 = true) ∧
    (∃ t, execute (encode (.wrcsr 0x0B#8 2#32)) { State.reset with irqPend := 0b11#2 } = .next t ∧
      t.irqPend.getLsbD 1 = false) := ⟨⟨_, rfl, rfl, rfl⟩, ⟨_, rfl, rfl⟩, ⟨_, rfl, rfl⟩⟩

theorem witness_EveryCommandCompletesAndOnlyAppendsToTheFifo : ∀ a v, Instr.flush ≠ .wrcsr a v := by
  intro a v h
  cases h

/-- The word offered at reset has room, whatever OUT_DEPTH is: the state of `withFetchWord`. -/
theorem witness_StepRunsTheDecodedInstruction :
    let s := State.reset.withFetchWord 64 0x0100000000000000
    s.currentEdge.rstN = true ∧ s.currentEdge.cmdValid = true ∧ s.offered = 0x0100000000000000#64 :: [] ∧
    s.hasRoom = true ∧ decode 0x0100000000000000#64 = .ok .startPack ∧ ∃ t, exec .startPack s = .next t :=
  ⟨rfl, rfl, rfl, rfl, rfl, _, rfl⟩

theorem witness_StepOnAnIllegalWordEntersIllegalCmd :
    let s := State.reset.withFetchWord 64 0x0500000000000000
    s.currentEdge.rstN = true ∧ s.currentEdge.cmdValid = true ∧ s.offered = 0x0500000000000000#64 :: [] ∧
    s.hasRoom = true ∧ legal 0x0500000000000000#64 = false :=
  ⟨rfl, rfl, rfl, rfl, by decide⟩

theorem witness_AHeldCommandIsNeitherExecutedNorDropped :
    ((waiting outDepth true).currentEdge.rstN = true ∧ (waiting outDepth true).hasRoom = false ∧
      (waiting outDepth true).edges ≠ []) ∧
    ({ waiting outDepth true with edges := [] }.hasRoom = false ∧
      { waiting outDepth true with edges := [] }.edges = [] ∧
      { waiting outDepth true with edges := [] }.offered ≠ []) ∧
    ((waiting (outDepth - 1) true).currentEdge.rstN = true ∧ (waiting (outDepth - 1) true).edges ≠ [] ∧
      (waiting (outDepth - 1) true).fifo.length + 1 = outDepth) := by
  have h := waiting_full_has_no_room outDepth true (by omega)
  refine ⟨⟨rfl, h, by simp [waiting]⟩, ⟨h, rfl, by simp [waiting]⟩, rfl, by simp [waiting], ?_⟩
  simp [waiting, filler, outDepth]

theorem witness_AnEdgeWithoutACommandChangesOnlyWhatTheHostTakes :
    State.reset.currentEdge.rstN = true ∧ State.reset.cmdOnPort = none ∧
    { State.reset with offered := [0#64], edges := [⟨true, false, true⟩] }.cmdOnPort = none := ⟨rfl, rfl, rfl⟩

/-- An empty FIFO at an edge at which the host is ready and a FLUSH in IDLE pushes its ERR item; and an item on the port. -/
theorem witness_ResultPortPresentsTheHeadItemAndAPopRemovesIt :
    let s := { State.reset with offered := [0x0300000000000000#64], edges := [⟨true, true, true⟩] }
    s.currentEdge.rstN = true ∧ (∃ t, step s = .next t ∧ t.fifo = [⟨.err, 4#32⟩]) ∧
    ∃ rest, (waiting 1 true).fifo = ⟨.byte, 0#32⟩ :: rest :=
  ⟨rfl, ⟨_, rfl, rfl⟩, [], rfl⟩

theorem witness_ResetEdgeRestoresTheResetStateAndAcceptsNothing :
    { sample .error .large 5 3 with offered := [1#64], edges := [⟨false, true, true⟩] }.currentEdge.rstN = false := rfl

theorem witness_EveryStepKeepsTheInvariant :
    State.reset.inv ∧ ∃ t, step State.reset = .next t :=
  ⟨⟨⟨rfl, rfl⟩, Nat.zero_le _⟩, _, rfl⟩

theorem witness_ErrorModeKeepsTheCursorOfTheFaultingCommand :
    ∃ t, execute (encode (.pushIdx 64#32)) (sample .unpack .tiny 0x3F 6) = .next t ∧ t.mode = .error :=
  ⟨_, rfl, rfl⟩

theorem witness_AcceptedCommandFindsRoomForAllItsPushes :
    let s := State.reset.withFetchWord 64 0x0300000000000000
    s.inv ∧ s.acceptedWord = some 0x0300000000000000#64 ∧ ∃ t, execute 0x0300000000000000#64 s = .next t :=
  ⟨⟨⟨rfl, rfl⟩, Nat.zero_le _⟩, rfl, _, rfl⟩

theorem witness_ResultStreamIsTheConcatenationOfThePushes :
    let s := { State.reset with offered := [0x0300000000000000#64], edges := [⟨true, true, true⟩] }
    (∀ e ∈ s.edges, e.rstN = true) ∧ ∃ t, Sys2Proof.core.run 1 s = .next t :=
  ⟨by decide, _, rfl⟩

end Sys2Proof.Tests
end

section
/-! PROOFS. What an executed word is and does, said once for every command: the word is the encoding of its command,
and a command either enters an error or completes in one of the ways listed in `Completes`. -/

namespace Sys2Proof.Proofs

open Sys2Proof Sys2Proof.Machine Sys2Proof.Laws

/-! ### A legal word is the word of its command (spec 30_encoding.md R80, R82, R84) -/

theorem requireNoCsr_eq_ok {f : Fields} {i j : Instr} (h : requireNoCsr f i = .ok j) : i = j ∧ f.csr = 0#8 := by
  unfold requireNoCsr at h
  split at h <;> simp_all

theorem requireNoOperand_eq_ok {f : Fields} {i j : Instr} (h : requireNoOperand f i = .ok j) :
    i = j ∧ f.csr = 0#8 ∧ f.opd = 0#32 := by
  unfold requireNoOperand at h
  split at h
  · exact ⟨(requireNoCsr_eq_ok h).1, (requireNoCsr_eq_ok h).2, ‹_›⟩
  · cases h

theorem requireByte_eq_ok {f : Fields} {i j : Instr} (h : requireByte f i = .ok j) :
    i = j ∧ f.csr = 0#8 ∧ f.opd.extractLsb' 8 24 = 0#24 := by
  unfold requireByte at h
  split at h
  · exact ⟨(requireNoCsr_eq_ok h).1, (requireNoCsr_eq_ok h).2, ‹_›⟩
  · cases h

/-- An operand whose upper 24 bits are 0 is its low byte, extended (R82). -/
theorem setWidth_low_byte {d : BitVec 32} (h : d.extractLsb' 8 24 = 0#24) :
    (d.extractLsb' 0 8).setWidth 32 = d := by
  apply BitVec.eq_of_toNat_eq
  have hi := congrArg BitVec.toNat h
  simp only [BitVec.extractLsb'_toNat, BitVec.toNat_setWidth, BitVec.toNat_ofNat, Nat.shiftRight_eq_div_pow] at *
  have := d.isLt
  omega

/-- The operands a command is decoded from are those it is encoded with, given its opcode and RSV = 0. -/
theorem fieldsOfInstr_of_decodeOperands {op : Opcode} {csr : BitVec 8} {opd : BitVec 32} {i : Instr}
    (h : decodeOperands ⟨op.code, csr, 0#16, opd⟩ op = .ok i) : fieldsOfInstr i = ⟨op.code, csr, 0#16, opd⟩ := by
  cases op with
  | nop | startPack | startUnpack | flush | abort =>
    obtain ⟨rfl, hc, hd⟩ := requireNoOperand_eq_ok h
    simp_all [fieldsOfInstr, Opcode.code]
  | pushByte =>
    obtain ⟨rfl, hc, hd⟩ := requireByte_eq_ok h
    simp_all [fieldsOfInstr, Opcode.code, setWidth_low_byte]
  | pushSym | pushIdx | lutFwd | lutRev =>
    obtain ⟨rfl, hc⟩ := requireNoCsr_eq_ok h
    simp_all [fieldsOfInstr, Opcode.code]
  | wrcsr =>
    cases h
    rfl

theorem fieldsOfInstr_of_decodeFields {f : Fields} {i : Instr} (h : decodeFields f = .ok i) :
    fieldsOfInstr i = f := by
  obtain ⟨opc, csr, rsv, opd⟩ := f
  unfold decodeFields at h
  split at h
  · cases h
  · rename_i op hop
    split at h
    · rename_i hrsv
      obtain rfl : op.code = opc := opcode_code_of_ofCode hop
      obtain rfl : rsv = 0#16 := hrsv
      exact fieldsOfInstr_of_decodeOperands h
    · cases h

theorem encode_of_decode {w : CmdWord} {i : Instr} (h : decode w = .ok i) : encode i = w := by
  rw [encode, fieldsOfInstr_of_decodeFields h, wordOf_fieldsOf]

/-! ### The symbol table (10_state.md R29, 41_lut.md R122) -/

theorem symbolCount_le (p : Profile) : symbolCount p ≤ 1024 := by
  cases p <;> decide

theorem symtab_injective {p : Profile} {i j : Nat} (hi : i < symbolCount p) (hj : j < symbolCount p)
    (h : symtab p i = symtab p j) : i = j := by
  have hcount := symbolCount_le p
  have hij := congrArg BitVec.toNat ((Config.symbolCode p).injective h)
  rw [BitVec.toNat_ofNat, BitVec.toNat_ofNat] at hij
  omega

theorem revLookup_eq_some_iff (p : Profile) (sym : Word32) (i : Nat) :
    revLookup p sym = some i ↔ i < symbolCount p ∧ symtab p i = sym :=
  reverseSearch_eq_some_iff (fun _ hi _ hj h => symtab_injective hi hj h) sym i

theorem revLookup_eq_none_iff (p : Profile) (sym : Word32) : revLookup p sym = none ↔ ¬ inTable p sym := by
  rw [revLookup, reverseSearch_eq_none_iff]
  simp only [inTable, not_exists, not_and, ne_eq]

/-! ### The effect of a command, case by case (40_control.md R100 to R107) -/

/-- The item a table query pushes (41_lut.md R124, R125); none for the other commands. -/
def lutAnswer (p : Profile) : Instr → Option Item
  | .lutFwd x => some (if x.toNat < symbolCount p then ⟨.lut, symtab p x.toNat⟩ else ⟨.lutMiss, x⟩)
  | .lutRev sym => some (lutRevAnswer p sym)
  | _ => none

theorem lutAnswer_tag {p : Profile} {i : Instr} {x : Item} (h : lutAnswer p i = some x) :
    x.tag = .lut ∨ x.tag = .lutMiss := by
  cases i with
  | lutFwd x =>
    obtain rfl := Option.some.inj h
    split <;> simp
  | lutRev sym =>
    obtain rfl := Option.some.inj h
    unfold lutRevAnswer
    split <;> simp
  | _ => cases h

/-- The ways in which a command that enters no error takes `s` to a next state: one constructor per effect, with the
condition under which it happens. -/
inductive Completes (s : State) : Instr → State → Prop where
  | nop : Completes s .nop s
  /-- R211. -/
  | discard {i : Instr} (mode : s.mode = .error) (cmd : isDiscardedInError i = true) : Completes s i s
  /-- R102. -/
  | startPack (noJob : s.mode.jobOpen = false) : Completes s .startPack (s.openJob .pack)
  /-- R103. -/
  | startUnpack (noJob : s.mode.jobOpen = false) : Completes s .startUnpack (s.openJob .unpack)
  /-- R104, R145. -/
  | flushPack (mode : s.mode = .pack) : Completes s .flush (finishJob (packFinal s))
  /-- R104, R167. -/
  | flushUnpack (mode : s.mode = .unpack) : Completes s .flush (finishJob s)
  /-- R105 in a job. -/
  | abortJob (job : s.mode.jobOpen = true) : Completes s .abort (s.push .aborted s.outCount).toIdle
  /-- R105 without a job. -/
  | abortNoJob (noJob : s.mode.jobOpen = false) : Completes s .abort s.toIdle
  /-- R141. -/
  | pushByte {b : Byte} (mode : s.mode = .pack) : Completes s (.pushByte b) (packByte b s)
  /-- R163, R164: the index `x`, given by its symbol or raw. -/
  | pushIndex {bySymbol : Bool} {x : Nat} (mode : s.mode = .unpack) (range : x < symbolCount s.profile) :
      Completes s (unpackCommand s.profile bySymbol x) (unpackIndex x s).countIn
  /-- R124, R125. -/
  | lut {i : Instr} {x : Item} (answer : lutAnswer s.profile i = some x) : Completes s i (s.push x.tag x.data)
  /-- R190. -/
  | writeConfig {v : Word32} (noJob : s.mode.jobOpen = false) : Completes s (.wrcsr 0x01#8 v) (s.writeConfig v)
  /-- R190. -/
  | writeIrqEn {v : Word32} : Completes s (.wrcsr 0x0A#8 v) { s with irqEn := v.extractLsb' 0 2 }
  /-- R190. -/
  | writeIrqPend {v : Word32} :
      Completes s (.wrcsr 0x0B#8 v) { s with irqPend := clearIrq (v.extractLsb' 0 2) s.irqPend }

/-- The command enters an error: it is not discarded, and the error is that of the table of R204 (R206). -/
def Raises (s : State) (i : Instr) (t : State) : Prop :=
  ∃ e, commandError s i = some e ∧ ¬ (s.mode = .error ∧ isDiscardedInError i = true) ∧ t = raiseError e (encode i) s

theorem writeCsr_of_not_writable {c : Option CsrName} (hconfig : c ≠ some .config) (hen : c ≠ some .irqEn)
    (hpend : c ≠ some .irqPend) (v : Word32) (w : CmdWord) (s : State) :
    writeCsr c v w s = raiseError .illegalCsr w s := by
  cases c with
  | none => rfl
  | some c =>
    cases c with
    | config | irqEn | irqPend => contradiction
    | _ => rfl

theorem execWrcsr_cases (a : CsrAddr) (v : Word32) {s t : State} (h : execWrcsr a v s = .next t) :
    Raises s (.wrcsr a v) t ∨ Completes s (.wrcsr a v) t := by
  have ne_name {b : CsrAddr} {c : CsrName} (hb : a ≠ b) (hc : c.address = b) : CsrName.ofAddress a ≠ some c :=
    fun ha => hb ((csr_address_of_ofAddress ha).symm.trans hc)
  obtain rfl : writeCsr (CsrName.ofAddress a) v (encode (.wrcsr a v)) s = t := Host.Outcome.next.inj h
  by_cases hconfig : a = 0x01#8
  · obtain rfl := hconfig
    rw [show CsrName.ofAddress 0x01#8 = some .config from rfl]
    cases hm : s.mode with
    | idle | error =>
      simp only [writeCsr, hm]
      exact .inr (.writeConfig (by rw [hm]; rfl))
    | pack | unpack =>
      simp only [writeCsr, hm]
      exact .inl ⟨_, by simp [commandError, hm, Mode.jobOpen], by simp [hm], rfl⟩
  by_cases hen : a = 0x0A#8
  · obtain rfl := hen
    exact .inr .writeIrqEn
  by_cases hpend : a = 0x0B#8
  · obtain rfl := hpend
    exact .inr .writeIrqPend
  rw [writeCsr_of_not_writable (ne_name hconfig rfl) (ne_name hen rfl) (ne_name hpend rfl)]
  exact .inl ⟨_, by simp [commandError, hconfig, hen, hpend], by simp [isDiscardedInError, isDataCommand], rfl⟩

theorem execPushSym_cases (sym : Word32) {s t : State} (h : execPushSym sym s = .next t) :
    Raises s (.pushSym sym) t ∨ Completes s (.pushSym sym) t := by
  unfold execPushSym at h
  split at h <;> obtain rfl := Host.Outcome.next.inj h
  case h_1 hm => exact .inr (.discard hm rfl)
  case h_2 hm =>
    cases hx : revLookup s.profile sym with
    | none =>
      have hsym := (revLookup_eq_none_iff _ _).mp hx
      exact .inl ⟨_, by simp only [commandError, hm, hsym]; rfl, by simp [hm], rfl⟩
    | some x =>
      obtain ⟨hlt, rfl⟩ := (revLookup_eq_some_iff _ _ _).mp hx
      exact .inr (.pushIndex (bySymbol := true) hm hlt)
  case h_3 hm => exact .inl ⟨_, by simp [commandError, hm], by simp [hm], rfl⟩
  case h_4 hm => exact .inl ⟨_, by simp [commandError, hm], by simp [hm], rfl⟩

theorem execPushIdx_cases (x : Word32) {s t : State} (h : execPushIdx x s = .next t) :
    Raises s (.pushIdx x) t ∨ Completes s (.pushIdx x) t := by
  unfold execPushIdx at h
  split at h <;> obtain rfl := Host.Outcome.next.inj h
  case h_1 hm => exact .inr (.discard hm rfl)
  case h_2 hm =>
    split
    case isTrue hge => exact .inl ⟨_, by simp [commandError, hm, hge], by simp [hm], rfl⟩
    case isFalse hlt =>
      have hcmd : unpackCommand s.profile false x.toNat = .pushIdx x := by simp [unpackCommand]
      exact .inr (hcmd ▸ .pushIndex hm (Nat.lt_of_not_le hlt))
  case h_3 hm => exact .inl ⟨_, by simp [commandError, hm], by simp [hm], rfl⟩
  case h_4 hm => exact .inl ⟨_, by simp [commandError, hm], by simp [hm], rfl⟩

/-- Everything a command can do: error entry, or one of the ways to complete. -/
theorem exec_cases {i : Instr} {s t : State} (h : exec i s = .next t) : Raises s i t ∨ Completes s i t := by
  cases i with
  | nop =>
    obtain rfl := Host.Outcome.next.inj h
    exact .inr .nop
  | startPack =>
    simp only [exec, execStartPack] at h
    split at h <;> obtain rfl := Host.Outcome.next.inj h
    case h_1 hm | h_2 hm => exact .inr (.startPack (by rw [hm]; rfl))
    case h_3 hm | h_4 hm => exact .inl ⟨_, by simp [commandError, hm, Mode.jobOpen], by simp [hm], rfl⟩
  | startUnpack =>
    simp only [exec, execStartUnpack] at h
    split at h <;> obtain rfl := Host.Outcome.next.inj h
    case h_1 hm | h_2 hm => exact .inr (.startUnpack (by rw [hm]; rfl))
    case h_3 hm | h_4 hm => exact .inl ⟨_, by simp [commandError, hm, Mode.jobOpen], by simp [hm], rfl⟩
  | flush =>
    simp only [exec, execFlush] at h
    split at h <;> obtain rfl := Host.Outcome.next.inj h
    case h_1 hm => exact .inr (.discard hm rfl)
    case h_2 hm => exact .inl ⟨_, by simp [commandError, hm], by simp [hm], rfl⟩
    case h_3 hm => exact .inr (.flushPack hm)
    case h_4 hm => exact .inr (.flushUnpack hm)
  | abort =>
    simp only [exec, execAbort] at h
    split at h <;> obtain rfl := Host.Outcome.next.inj h
    case h_1 hm | h_2 hm => exact .inr (.abortNoJob (by rw [hm]; rfl))
    case h_3 hm | h_4 hm => exact .inr (.abortJob (by rw [hm]; rfl))
  | pushByte b =>
    simp only [exec, execPushByte] at h
    split at h <;> obtain rfl := Host.Outcome.next.inj h
    case h_1 hm => exact .inr (.discard hm rfl)
    case h_2 hm => exact .inr (.pushByte hm)
    case h_3 hm | h_4 hm => exact .inl ⟨_, by simp [commandError, hm], by simp [hm], rfl⟩
  | pushSym sym => exact execPushSym_cases sym h
  | pushIdx x => exact execPushIdx_cases x h
  | lutFwd x =>
    obtain rfl := Host.Outcome.next.inj h
    split
    case isTrue hx => exact .inr (.lut (x := ⟨.lut, symtab s.profile x.toNat⟩) (congrArg some (if_pos hx)))
    case isFalse hx => exact .inr (.lut (x := ⟨.lutMiss, x⟩) (congrArg some (if_neg hx)))
  | lutRev sym =>
    obtain rfl := Host.Outcome.next.inj h
    exact .inr (.lut rfl)
  | wrcsr a v => exact execWrcsr_cases a v h

/-- Everything an executed word can do: error entry on that word, or it spells a command that completes (R100). -/
theorem execute_effects {w : CmdWord} {s t : State} (h : execute w s = .next t) :
    (∃ e, t = raiseError e w s) ∨ ∃ i, w = encode i ∧ Completes s i t := by
  obtain ⟨i, hdecode, hexec⟩ | ⟨-, -, rfl⟩ := execute_cases h
  · obtain rfl := encode_of_decode hdecode
    obtain ⟨e, -, -, rfl⟩ | hdone := exec_cases hexec
    · exact .inl ⟨e, rfl⟩
    · exact .inr ⟨i, rfl, hdone⟩
  · exact .inl ⟨_, rfl⟩

end Sys2Proof.Proofs
end

section
/-! PROOFS. The state family (spec 10_state.md): the invariant, what changes CONFIG, the counters, the error record
and the pending bits, each read off the cases of a completed command. -/

namespace Sys2Proof.Proofs

open Sys2Proof Sys2Proof.Machine

/-! ### The shapes of the data commands -/

/-- PackFinal emits at most one chunk and leaves the cursor alone (42_pack.md R145). -/
theorem packFinal_eq (s : State) :
    ∃ is : List Nat, is.length ≤ 1 ∧
      packFinal s = { s with fifo := s.fifo ++ is.map (packItem s.profile s.emitIdx),
                             outCount := s.outCount + BitVec.ofNat 32 is.length } := by
  unfold packFinal
  split
  · exact ⟨[], by simp, by simp⟩
  · exact ⟨[_], by simp, emitIndex_eq s _⟩

@[simp] theorem packItem_isData (p : Profile) (emitIdx : Bool) (i : Nat) :
    (packItem p emitIdx i).tag.isData = true := by
  cases emitIdx <;> rfl

@[simp] theorem isStart_unpackCommand (p : Profile) (bySymbol : Bool) (x : Nat) :
    isStart (unpackCommand p bySymbol x) = false := by
  cases bySymbol <;> rfl

@[simp] theorem isDataCommand_unpackCommand (p : Profile) (bySymbol : Bool) (x : Nat) :
    isDataCommand (unpackCommand p bySymbol x) = true := by
  cases bySymbol <;> rfl

/-! ### The cursor after the regrouping loop (10_state.md R28) -/

/-- Shifting `n` new bits in below `h` held ones gives a value of `h + n` bits. -/
theorem shift_in_lt {a h n v : Nat} (ha : a < 2 ^ h) (hv : v < 2 ^ n) : a <<< n ||| v < 2 ^ (h + n) :=
  Nat.or_lt_two_pow (Nat.shiftLeft_lt ha) (hv.trans_le (Nat.pow_le_pow_right (by decide) (by omega)))

theorem drain_chunks_length {width h a : Nat} (hw : 0 < width) (ha : a < 2 ^ h) :
    (drain width h a h).chunks.length = h / width := by
  simp [drain_spec hw le_rfl ha]

/-- The loop leaves less than a whole chunk, which ACC and HELD keep in full. -/
theorem setCursor_drain_cursorBelow {width h a : Nat} (hw : 0 < width) (hw10 : width ≤ 10) (ha : a < 2 ^ h)
    (s : State) : (s.setCursor (drain width h a h)).cursorBelow width := by
  have hheld : h % width < width := Nat.mod_lt _ hw
  have hacc : a % 2 ^ (h % width) < 2 ^ (h % width) := Nat.mod_lt _ (by positivity)
  have hpow : 2 ^ (h % width) ≤ 2 ^ 10 := Nat.pow_le_pow_right (by decide) (by omega)
  have hheld5 : h % width % 2 ^ 5 = h % width := Nat.mod_eq_of_lt (by omega)
  have hacc18 : a % 2 ^ (h % width) % 2 ^ 18 = a % 2 ^ (h % width) := Nat.mod_eq_of_lt (by omega)
  simp only [State.cursorBelow, setCursor_held, setCursor_acc, drain_spec hw le_rfl ha, BitVec.toNat_ofNat, hheld5,
    hacc18]
  exact ⟨hheld, hacc⟩

theorem packByte_cursorBelow {s : State} (h : s.cursorBelow (chunkBits s.profile)) (b : Byte) :
    (packByte b s).cursorBelow (chunkBits s.profile) :=
  setCursor_drain_cursorBelow (chunkBits_pos _) (chunkBits_le _) (shift_in_lt h.2 b.isLt) s

theorem unpackIndex_cursorBelow {s : State} (h : s.cursorBelow 8) {x : Nat} (hx : x < symbolCount s.profile) :
    (unpackIndex x s).cursorBelow 8 :=
  setCursor_drain_cursorBelow (by decide) (by decide) (shift_in_lt h.2 (symbolCount_eq_pow _ ▸ hx)) s

/-! ### The invariant clause by clause (R28) -/

theorem cursorOk_of_idle {s : State} (hm : s.mode = .idle) : s.cursorOk ↔ s.acc = 0#18 ∧ s.held = 0#5 := by
  simp only [State.cursorOk, hm]

theorem cursorOk_of_pack {s : State} (hm : s.mode = .pack) : s.cursorOk ↔ s.cursorBelow (chunkBits s.profile) := by
  simp only [State.cursorOk, hm]

theorem cursorOk_of_unpack {s : State} (hm : s.mode = .unpack) : s.cursorOk ↔ s.cursorBelow 8 := by
  simp only [State.cursorOk, hm]

theorem cursorOk_of_error {s : State} (hm : s.mode = .error) : s.cursorOk ↔ s.cursorBelow 10 := by
  simp only [State.cursorOk, hm]

/-- The cursor of every mode meets the clause of ERROR. -/
theorem cursorBelow_ten_of_cursorOk {s : State} (h : s.cursorOk) : s.cursorBelow 10 := by
  cases hm : s.mode with
  | idle =>
    obtain ⟨hacc, hheld⟩ := (cursorOk_of_idle hm).mp h
    simp [State.cursorBelow, hacc, hheld]
  | pack =>
    obtain ⟨hheld, hacc⟩ := (cursorOk_of_pack hm).mp h
    exact ⟨hheld.trans_le (chunkBits_le _), hacc⟩
  | unpack =>
    obtain ⟨hheld, hacc⟩ := (cursorOk_of_unpack hm).mp h
    exact ⟨hheld.trans_le (by decide), hacc⟩
  | error => exact (cursorOk_of_error hm).mp h

theorem openJob_cursorBelow (s : State) (m : Mode) {bound : Nat} (h : 0 < bound) :
    (s.openJob m).cursorBelow bound := by
  simpa [State.cursorBelow] using h

/-- Outside a job the cursor's clause does not read PROFILE, so a write to CONFIG keeps it. -/
theorem writeConfig_cursorOk {s : State} (hjob : s.mode.jobOpen = false) (h : s.cursorOk) (v : Word32) :
    (s.writeConfig v).cursorOk := by
  cases hm : s.mode with
  | idle => exact (cursorOk_of_idle (s := s.writeConfig v) hm).mpr ((cursorOk_of_idle hm).mp h)
  | error => exact (cursorOk_of_error (s := s.writeConfig v) hm).mpr ((cursorOk_of_error hm).mp h)
  | pack | unpack => simp [hm, Mode.jobOpen] at hjob

theorem completes_cursorOk {s t : State} {i : Instr} (hdone : Completes s i t) (h : s.cursorOk) : t.cursorOk := by
  cases hdone with
  | startPack => exact openJob_cursorBelow s .pack (chunkBits_pos _)
  | startUnpack => exact openJob_cursorBelow s .unpack (by decide)
  | flushPack | flushUnpack | abortJob | abortNoJob => exact (cursorOk_of_idle rfl).mpr ⟨rfl, rfl⟩
  | pushByte hm =>
    rw [cursorOk_of_pack (by simpa [packByte_eq] using hm)]
    simpa only [packByte_eq] using packByte_cursorBelow ((cursorOk_of_pack hm).mp h) _
  | pushIndex hm hx =>
    rw [cursorOk_of_unpack (by simpa [unpackIndex_eq] using hm)]
    exact unpackIndex_cursorBelow ((cursorOk_of_unpack hm).mp h) hx
  | writeConfig hjob => exact writeConfig_cursorOk hjob h _
  | nop | discard | lut | writeIrqEn | writeIrqPend => exact h

/-! ### Room for the pushes (R33, 20_memory.md R52) -/

theorem packByte_fifo_length_le {s : State} (h : s.cursorBelow (chunkBits s.profile)) (b : Byte) :
    (packByte b s).fifo.length ≤ s.fifo.length + 2 := by
  have hcb : 6 ≤ chunkBits s.profile := by cases s.profile <;> decide
  have htwo : (s.held.toNat + 8) / chunkBits s.profile < 3 :=
    (Nat.div_lt_iff_lt_mul (chunkBits_pos _)).mpr (by have := h.1; omega)
  simp only [packByte_eq, List.length_append, List.length_map,
    drain_chunks_length (chunkBits_pos _) (shift_in_lt h.2 b.isLt)]
  omega

theorem unpackIndex_fifo_length_le {s : State} (h : s.cursorBelow 8) {x : Nat} (hx : x < symbolCount s.profile) :
    (unpackIndex x s).fifo.length ≤ s.fifo.length + 2 := by
  have hcb := chunkBits_le s.profile
  have hheld := h.1
  simp only [unpackIndex_eq, List.length_append, List.length_map,
    drain_chunks_length (by decide : 0 < 8) (shift_in_lt h.2 (symbolCount_eq_pow _ ▸ hx))]
  omega

theorem completes_fifo_length_le {s t : State} {i : Instr} (hdone : Completes s i t) (h : s.cursorOk) :
    t.fifo.length ≤ s.fifo.length + 2 := by
  cases hdone with
  | flushPack =>
    obtain ⟨is, hlen, hfinal⟩ := packFinal_eq s
    simpa [hfinal] using hlen
  | pushByte hm => exact packByte_fifo_length_le ((cursorOk_of_pack hm).mp h) _
  | pushIndex hm hx => exact unpackIndex_fifo_length_le ((cursorOk_of_unpack hm).mp h) hx
  | _ => simp

theorem execute_keeps_cursorOk {w : CmdWord} {s t : State} (h : s.cursorOk) (hex : execute w s = .next t) :
    t.cursorOk := by
  obtain ⟨e, rfl⟩ | ⟨i, -, hdone⟩ := execute_effects hex
  · have hbelow := cursorBelow_ten_of_cursorOk h
    exact (cursorOk_of_error (raiseError_mode e w s)).mpr hbelow
  · exact completes_cursorOk hdone h

theorem execute_fifo_length_le {w : CmdWord} {s t : State} (h : s.cursorOk) (hex : execute w s = .next t) :
    t.fifo.length ≤ s.fifo.length + 2 := by
  obtain ⟨e, rfl⟩ | ⟨i, -, hdone⟩ := execute_effects hex
  · simp
  · exact completes_fifo_length_le hdone h

/-- An accepted word has room for its two pushes, so the FIFO keeps its bound (R52). -/
theorem accepted_keeps_fifoOk {w : CmdWord} {s t : State} (h : s.cursorOk) (hacc : s.acceptedWord = some w)
    (hex : execute w s = .next t) : t.fifoOk := by
  obtain ⟨-, -, hroom, -⟩ := acceptedWord_eq_some hacc
  have hfree := (hasRoom_iff s).mp hroom
  have hlen := execute_fifo_length_le h hex
  show t.fifo.length ≤ outDepth
  omega

theorem dropPopped_length_le (s t : State) : (s.dropPopped t).length ≤ t.fifo.length := by
  unfold State.dropPopped
  split <;> simp

theorem reset_inv : State.reset.inv :=
  ⟨(cursorOk_of_idle rfl).mpr ⟨rfl, rfl⟩, Nat.zero_le _⟩

/-- Settles O51. -/
theorem invariantHoldsAtReset : Obligations.InvariantHoldsAtReset :=
  reset_inv

/-- Settles O52: of the three kinds of edge, reset gives the reset state, an accepted word keeps the cursor clause of
its new mode and had room for its pushes, and an edge without a command only pops. -/
theorem everyStepKeepsTheInvariant : Obligations.EveryStepKeepsTheInvariant := by
  rintro s t ⟨hcursor, hfifo⟩ hstep
  obtain ⟨-, rfl⟩ | ⟨-, ⟨w, u, hacc, hex, rfl⟩ | ⟨-, -, rfl⟩⟩ := step_cases hstep
  · exact reset_inv
  · have hcursor' := execute_keeps_cursorOk hcursor hex
    have hfifo' := accepted_keeps_fifoOk hcursor hacc hex
    exact ⟨hcursor', (dropPopped_length_le s u).trans hfifo'⟩
  · exact ⟨hcursor, (dropPopped_length_le s s).trans hfifo⟩

end Sys2Proof.Proofs
end

section
/-! PROOFS. The state family (spec 10_state.md), continued: the symbol table, CONFIG and its read-back, the counters,
the error record, the pending bits, and the reset values. -/

namespace Sys2Proof.Proofs

open Sys2Proof Sys2Proof.Machine

/-- Settles O16. -/
theorem symbolTableIsInjectiveAndReverseSearchInvertsIt :
    Obligations.SymbolTableIsInjectiveAndReverseSearchInvertsIt :=
  ⟨fun _ _ _ hi hj h => symtab_injective hi hj h, revLookup_eq_some_iff⟩

/-! ### CONFIG (R23, R25, R185) -/

@[simp] theorem csrRead_config (s : State) : s.csrRead 0x01#8 = s.configWord := rfl

theorem configWord_toNat (s : State) : s.configWord.toNat = s.profile.code.toNat + 16 * s.emitIdx.toNat := by
  unfold State.configWord
  generalize s.profile = p
  generalize s.emitIdx = x
  cases p <;> cases x <;> rfl

theorem profile_code_le (p : Profile) : p.code.toNat ≤ 3 := by
  cases p <;> decide

/-- A written PROFILE code is stored up to 3 and is Standard above (R25). -/
theorem profileOfCode_code_toNat (c : BitVec 4) :
    (profileOfCode c).code.toNat = if c.toNat ≤ 3 then c.toNat else 2 := by
  revert c
  decide

theorem execWrcsr_config {s : State} (h : s.mode = .idle ∨ s.mode = .error) (v : Word32) :
    exec (.wrcsr 0x01#8 v) s = .next (s.writeConfig v) := by
  show Host.Outcome.next (writeCsr (some .config) v _ s) = _
  obtain hm | hm := h <;> simp only [writeCsr, hm]

theorem writeConfig_configWord_toNat (s : State) (v : Word32) :
    (s.writeConfig v).configWord.toNat =
      (if v.toNat % 16 ≤ 3 then v.toNat % 16 else 2) + 16 * (v.toNat / 16 % 2) := by
  have hprofile : (v.extractLsb' 0 4).toNat = v.toNat % 16 := by simp
  have hemit : (v.getLsbD 4).toNat = v.toNat / 16 % 2 := by
    simp [BitVec.getLsbD, Nat.toNat_testBit]
  rw [configWord_toNat, writeConfig_profile, writeConfig_emitIdx, profileOfCode_code_toNat, hprofile, hemit]

/-- Settles O31. -/
theorem configReadsBackTheWrittenProfileOrStandard : Obligations.ConfigReadsBackTheWrittenProfileOrStandard := by
  refine ⟨fun v s hmode => ?_, fun s => ?_⟩
  · exact ⟨_, execWrcsr_config hmode v, rfl, rfl, writeConfig_configWord_toNat s v⟩
  · have hle := profile_code_le s.profile
    rw [csrRead_config, configWord_toNat]
    omega

/-- A completed command keeps CONFIG, unless it is the WRCSR to it outside a job (R23, R190). -/
theorem completes_config {s t : State} {i : Instr} (hdone : Completes s i t) :
    (t.profile = s.profile ∧ t.emitIdx = s.emitIdx) ∨
      ((∃ v, i = .wrcsr 0x01#8 v) ∧ s.mode.jobOpen = false) := by
  cases hdone with
  | writeConfig hjob => exact .inr ⟨⟨_, rfl⟩, hjob⟩
  | flushPack =>
    obtain ⟨is, -, hfinal⟩ := packFinal_eq s
    simp [hfinal]
  | _ => simp [packByte_eq, unpackIndex_eq]

/-- Settles O33. -/
theorem configChangesOnlyByWrcsrOutsideAJob : Obligations.ConfigChangesOnlyByWrcsrOutsideAJob := by
  intro w s t hex hchange
  obtain ⟨e, rfl⟩ | ⟨i, rfl, hdone⟩ := execute_effects hex
  · simp at hchange
  · obtain ⟨hprofile, hemit⟩ | ⟨⟨v, rfl⟩, hjob⟩ := completes_config hdone
    · simp [hprofile, hemit] at hchange
    · exact ⟨⟨v, rfl⟩, hjob⟩

/-! ### The counters (R31) -/

/-- The items `new` are what the command `i` pushed from `s` to `t`, and the counters count it (R31). -/
def CountsPushes (s : State) (i : Instr) (t : State) (new : List Item) : Prop :=
  t.fifo = s.fifo ++ new ∧
    (isStart i = true → t.mode ≠ .error → t.inCount = 0#32 ∧ t.outCount = 0#32) ∧
    (isStart i = false ∨ t.mode = .error →
      t.outCount = s.outCount + BitVec.ofNat 32 (new.countP (fun x => x.tag.isData)) ∧
      t.inCount = if isDataCommand i = true ∧ t.mode ≠ .error then s.inCount + 1#32 else s.inCount)

/-- A command that is neither a START nor a data command, or ends in ERROR, and pushes no data item, leaves both
counters as they are. -/
theorem countsPushes_of_no_data {s t : State} {i : Instr} {new : List Item} (hfifo : t.fifo = s.fifo ++ new)
    (hnew : ∀ x ∈ new, x.tag.isData = false) (hin : t.inCount = s.inCount) (hout : t.outCount = s.outCount)
    (hi : (isStart i = false ∧ isDataCommand i = false) ∨ t.mode = .error) : CountsPushes s i t new := by
  have hcount : new.countP (fun x => x.tag.isData) = 0 := by
    simpa [List.countP_eq_zero] using hnew
  refine ⟨hfifo, fun hstart hmode => ?_, fun _ => ⟨by simp [hcount, hout], ?_⟩⟩
  · simp [hstart, hmode] at hi
  · rw [if_neg (by rintro ⟨hdata, hmode⟩; simp [hdata, hmode] at hi), hin]

/-- A data command that pushes data items only counts itself and them. -/
theorem countsPushes_of_data {s t : State} {i : Instr} {new : List Item} (hfifo : t.fifo = s.fifo ++ new)
    (hnew : ∀ x ∈ new, x.tag.isData = true) (hin : t.inCount = s.inCount + 1#32)
    (hout : t.outCount = s.outCount + BitVec.ofNat 32 new.length) (hstart : isStart i = false)
    (hdata : isDataCommand i = true) (hmode : t.mode ≠ .error) : CountsPushes s i t new := by
  have hcount : new.countP (fun x => x.tag.isData) = new.length := List.countP_eq_length.mpr hnew
  exact ⟨hfifo, by simp [hstart], fun _ => ⟨by rw [hcount, hout], by rw [if_pos ⟨hdata, hmode⟩, hin]⟩⟩

theorem raiseError_countsPushes (e : ErrorKind) (w : CmdWord) (s : State) (i : Instr) :
    CountsPushes s i (raiseError e w s) [⟨.err, e.code.setWidth 32⟩] :=
  countsPushes_of_no_data rfl (by simp [Tag.isData]) rfl rfl (.inr rfl)

/-- FLUSH of a pack job counts its final chunk, but neither itself nor the END item. -/
theorem flushPack_countsPushes (s : State) : ∃ new, CountsPushes s .flush (finishJob (packFinal s)) new := by
  obtain ⟨is, -, hfinal⟩ := packFinal_eq s
  have hcount : (is.map (packItem s.profile s.emitIdx)).countP (fun x => x.tag.isData) = is.length := by
    rw [List.countP_eq_length.mpr (by simp), List.length_map]
  refine ⟨is.map (packItem s.profile s.emitIdx) ++ [⟨.jobEnd, (packFinal s).outCount⟩], ?_, ?_, fun _ => ⟨?_, ?_⟩⟩
  · simp [hfinal]
  · simp [isStart]
  · rw [List.countP_append, hcount]
    simp [hfinal, Tag.isData]
  · simp [hfinal, isDataCommand]

theorem completes_countsPushes {s t : State} {i : Instr} (hdone : Completes s i t) :
    ∃ new, CountsPushes s i t new := by
  cases hdone with
  | nop | writeConfig | writeIrqEn | writeIrqPend | abortNoJob =>
    exact ⟨[], countsPushes_of_no_data (by simp) (by simp) rfl rfl (.inl ⟨rfl, rfl⟩)⟩
  | discard hm => exact ⟨[], countsPushes_of_no_data (by simp) (by simp) rfl rfl (.inr hm)⟩
  | startPack | startUnpack => exact ⟨[], by simp, by simp, by simp [isStart]⟩
  | flushPack => exact flushPack_countsPushes s
  | flushUnpack | abortJob =>
    exact ⟨_, countsPushes_of_no_data rfl (by simp [Tag.isData]) rfl rfl (.inl ⟨rfl, rfl⟩)⟩
  | pushByte hm =>
    exact ⟨_, countsPushes_of_data (congrArg State.fifo (packByte_eq _ s)) (by simp) (by simp [packByte_eq])
      (by simp [packByte_eq]) rfl rfl (by simp [packByte_eq, hm])⟩
  | pushIndex hm =>
    exact ⟨_, countsPushes_of_data (congrArg State.fifo (unpackIndex_eq _ s)) (by simp [Tag.isData])
      (by simp [unpackIndex_eq]) (by simp [unpackIndex_eq]) (by simp) (by simp) (by simp [unpackIndex_eq, hm])⟩
  | lut hanswer =>
    refine ⟨_, countsPushes_of_no_data rfl ?_ rfl rfl (.inl ?_)⟩
    · obtain htag | htag := lutAnswer_tag hanswer <;> simp [htag, Tag.isData]
    · cases i with
      | lutFwd | lutRev => exact ⟨rfl, rfl⟩
      | _ => cases hanswer

/-- Settles O34. -/
theorem countersCountDataCommandsAndDataItems : Obligations.CountersCountDataCommandsAndDataItems := by
  intro i s t hexec
  obtain ⟨e, -, -, rfl⟩ | hdone := exec_cases hexec
  · exact ⟨_, raiseError_countsPushes e _ s i⟩
  · exact completes_countsPushes hdone

/-! ### The error record and ERROR (R28, R32, 60_exceptions.md R206, R207) -/

theorem completes_errorRecord {s t : State} {i : Instr} (hdone : Completes s i t) :
    t.errCode = s.errCode ∧ t.errCmdLo = s.errCmdLo ∧ t.errCmdHi = s.errCmdHi ∧ t.errPos = s.errPos := by
  cases hdone with
  | flushPack =>
    obtain ⟨is, -, hfinal⟩ := packFinal_eq s
    simp [hfinal]
  | _ => simp [packByte_eq, unpackIndex_eq]

/-- Settles O38: the pins and the pop do not touch the record, and a completed command keeps it. -/
theorem errorRegistersChangeOnlyByErrorEntry : Obligations.ErrorRegistersChangeOnlyByErrorEntry := by
  intro s t hrst hstep hchange
  obtain ⟨hreset, -⟩ | ⟨-, ⟨w, u, hacc, hex, rfl⟩ | ⟨-, -, rfl⟩⟩ := step_cases hstep
  · simp [hrst] at hreset
  · obtain ⟨e, rfl⟩ | ⟨i, -, hdone⟩ := execute_effects hex
    · exact ⟨w, e, hacc, rfl⟩
    · obtain ⟨hcode, hlo, hhi, hpos⟩ := completes_errorRecord hdone
      simp [hcode, hlo, hhi, hpos] at hchange
  · simp at hchange

/-- A command that completes in ERROR wrote no cursor: the job commands all end in another mode. -/
theorem completes_cursor_of_error {s t : State} {i : Instr} (hdone : Completes s i t) (hmode : t.mode = .error) :
    t.acc = s.acc ∧ t.held = s.held := by
  cases hdone with
  | startPack | startUnpack | flushPack | flushUnpack | abortJob | abortNoJob => cases hmode
  | pushByte hm => simp [packByte_eq, hm] at hmode
  | pushIndex hm => simp [unpackIndex_eq, hm] at hmode
  | nop | discard | lut | writeConfig | writeIrqEn | writeIrqPend => exact ⟨rfl, rfl⟩

/-- Settles O53. -/
theorem errorModeKeepsTheCursorOfTheFaultingCommand : Obligations.ErrorModeKeepsTheCursorOfTheFaultingCommand := by
  intro w s t hex hmode
  obtain ⟨e, rfl⟩ | ⟨i, -, hdone⟩ := execute_effects hex
  · exact ⟨rfl, rfl⟩
  · exact completes_cursor_of_error hdone hmode

/-! ### The pending bits (R34, 60_exceptions.md R212) -/

/-- A completed command keeps IRQ_PEND, unless it ends a job or is a WRCSR to it. -/
theorem completes_irqPend {s t : State} {i : Instr} (hdone : Completes s i t) :
    t.irqPend = s.irqPend ∨
      (i = .flush ∧ s.mode.jobOpen = true ∧ t.irqPend = raiseIrq irqEnd s.irqPend) ∨
      ∃ v : Word32, i = .wrcsr 0x0B#8 v ∧ t.irqPend = clearIrq (v.extractLsb' 0 2) s.irqPend := by
  cases hdone with
  | flushPack hm =>
    obtain ⟨is, -, hfinal⟩ := packFinal_eq s
    exact .inr (.inl ⟨rfl, by rw [hm]; rfl, by simp [hfinal]⟩)
  | flushUnpack hm => exact .inr (.inl ⟨rfl, by rw [hm]; rfl, rfl⟩)
  | writeIrqPend => exact .inr (.inr ⟨_, rfl, rfl⟩)
  | _ => exact .inl (by simp [packByte_eq, unpackIndex_eq])

theorem getLsbD_raiseIrq (m pend : BitVec 2) (k : Nat) :
    (raiseIrq m pend).getLsbD k = (pend.getLsbD k || m.getLsbD k) := by
  simp [raiseIrq]

theorem getLsbD_clearIrq (v : Word32) (pend : BitVec 2) (k : Nat) :
    (clearIrq (v.extractLsb' 0 2) pend).getLsbD k = (pend.getLsbD k && !v.getLsbD k) := by
  by_cases hk : k < 2
  · simp [clearIrq, hk]
  · simp [clearIrq, BitVec.getLsbD_of_ge pend k (by omega)]

/-- A bit that is clear before a raise and set after it is one of those raised. -/
theorem getLsbD_of_newly_raised {m pend : BitVec 2} {k : Nat} (hbefore : pend.getLsbD k = false)
    (hafter : (raiseIrq m pend).getLsbD k = true) : m.getLsbD k = true := by
  rwa [getLsbD_raiseIrq, hbefore, Bool.false_or] at hafter

theorem raiseIrq_clears_no_bit {m pend : BitVec 2} {k : Nat} (hbefore : pend.getLsbD k = true) :
    (raiseIrq m pend).getLsbD k ≠ false := by
  simp [getLsbD_raiseIrq, hbefore]

theorem clearIrq_sets_no_bit {v : Word32} {pend : BitVec 2} {k : Nat} (hbefore : pend.getLsbD k = false) :
    (clearIrq (v.extractLsb' 0 2) pend).getLsbD k ≠ true := by
  rw [getLsbD_clearIrq, hbefore, Bool.false_and]
  decide

/-- A bit that is set before a clearing write and clear after it was written with 1. -/
theorem getLsbD_of_newly_cleared {v : Word32} {pend : BitVec 2} {k : Nat} (hbefore : pend.getLsbD k = true)
    (hafter : (clearIrq (v.extractLsb' 0 2) pend).getLsbD k = false) : v.getLsbD k = true := by
  simpa only [getLsbD_clearIrq, hbefore, Bool.true_and, Bool.not_eq_false'] using hafter

/-- Settles O42: error entry raises bit 0 alone, the end of a job bit 1 alone, and a WRCSR only clears. -/
theorem pendingBitsAreSetByTheirEventsAndClearedByWritingOne :
    Obligations.PendingBitsAreSetByTheirEventsAndClearedByWritingOne := by
  intro w s t hex
  obtain ⟨e, rfl⟩ | ⟨i, rfl, hdone⟩ := execute_effects hex
  · exact ⟨fun _ _ => ⟨e, rfl⟩, fun h0 h1 => absurd (getLsbD_of_newly_raised h0 h1) (by decide),
      fun _ h1 h0 => absurd h0 (raiseIrq_clears_no_bit h1)⟩
  obtain hpend | ⟨rfl, hjob, hpend⟩ | ⟨v, rfl, hpend⟩ := completes_irqPend hdone <;> rw [hpend]
  · exact ⟨fun h0 h1 => absurd h1 (Bool.eq_false_iff.mp h0), fun h0 h1 => absurd h1 (Bool.eq_false_iff.mp h0),
      fun _ h1 h0 => absurd h1 (Bool.eq_false_iff.mp h0)⟩
  · exact ⟨fun h0 h1 => absurd (getLsbD_of_newly_raised h0 h1) (by decide), fun _ _ => ⟨rfl, hjob⟩,
      fun _ h1 h0 => absurd h0 (raiseIrq_clears_no_bit h1)⟩
  · exact ⟨fun h0 h1 => absurd h1 (clearIrq_sets_no_bit h0), fun h0 h1 => absurd h1 (clearIrq_sets_no_bit h0),
      fun _ h1 h0 => ⟨v, rfl, getLsbD_of_newly_cleared h1 h0⟩⟩

/-! ### Reset (R37) -/

theorem reset_hasRoom : State.reset.hasRoom = true :=
  (hasRoom_iff _).mpr (by simp [State.reset, outDepth])

/-- Settles O35. -/
theorem resetStateHasTheResetValues : Obligations.ResetStateHasTheResetValues := by
  have hstatus : State.reset.csrRead 0x02#8 = 0x01000000#32 := by
    show State.reset.statusWord = _
    rw [State.statusWord, reset_hasRoom]
    decide
  exact ⟨rfl, by decide, hstatus, rfl, rfl, rfl, rfl, rfl, rfl, rfl, rfl, rfl, rfl, rfl, by decide, by decide⟩

end Sys2Proof.Proofs
end

section
/-! PROOFS. Regrouping a bit stream (spec 20_memory.md R57, R58): the loop of PUSH_BYTE and UnpackIndex, run once for
each piece of a stream, emits the groups of the whole stream. -/

namespace Sys2Proof.Proofs

open Sys2Proof Sys2Proof.Machine

/-! ### The number a bit stream spells -/

@[simp] theorem length_bitsOf (n v : Nat) : (bitsOf n v).length = n := by
  simp [bitsOf]

theorem bitsOf_zero_right (n : Nat) : bitsOf n 0 = List.replicate n false := by
  simp [bitsOf, List.map_const']

/-- The most significant bit comes first. -/
theorem bitsOf_succ (n v : Nat) : bitsOf (n + 1) v = v.testBit n :: bitsOf n v := by
  simp only [bitsOf, List.range_succ_eq_map, List.map_cons, List.map_map]
  congr 1
  refine List.map_congr_left fun k _ => ?_
  simp only [Function.comp, Nat.succ_eq_add_one, show n + 1 - 1 - (k + 1) = n - 1 - k by omega]

theorem numberOf_append (as bs : List Bool) : numberOf (as ++ bs) = numberOf as * 2 ^ bs.length + numberOf bs := by
  induction bs using List.reverseRecOn with
  | nil => simp [numberOf]
  | append_singleton bs b ih =>
    simp only [numberOf, ← List.append_assoc, List.foldl_append, List.foldl_cons, List.foldl_nil, List.length_append,
      List.length_singleton] at ih ⊢
    rw [ih, Nat.pow_succ]
    ring

theorem numberOf_cons (b : Bool) (bs : List Bool) : numberOf (b :: bs) = b.toNat * 2 ^ bs.length + numberOf bs := by
  simpa [numberOf] using numberOf_append [b] bs

theorem numberOf_lt (bs : List Bool) : numberOf bs < 2 ^ bs.length := by
  induction bs with
  | nil => simp [numberOf]
  | cons b bs ih =>
    rw [numberOf_cons, List.length_cons, Nat.pow_succ]
    cases b <;> simp <;> omega

theorem numberOf_bitsOf (n v : Nat) : numberOf (bitsOf n v) = v % 2 ^ n := by
  induction n with
  | zero => simp [bitsOf, numberOf, Nat.mod_one]
  | succ n ih =>
    rw [bitsOf_succ, numberOf_cons, ih, length_bitsOf, Nat.toNat_testBit, Nat.mod_pow_succ, Nat.mul_comm,
      Nat.add_comm]

/-! ### Group j of a stream (R57) -/

theorem groupAt_lt (w : Nat) (stream : List Bool) (j : Nat) : groupAt w stream j < 2 ^ w := by
  simpa [groupAt] using numberOf_lt ((List.range w).map fun k => stream.getD (j * w + k) false)

/-- Zero bits behind the end of a stream do not change its groups. -/
theorem groupAt_append_zeros (w : Nat) (stream : List Bool) (n j : Nat) :
    groupAt w (stream ++ List.replicate n false) j = groupAt w stream j := by
  have hbit (k : Nat) : (stream ++ List.replicate n false).getD k false = stream.getD k false := by
    by_cases hk : k < stream.length
    · exact List.getD_append _ _ _ _ hk
    · have hk := Nat.le_of_not_lt hk
      rw [List.getD_append_right _ _ _ _ hk, List.getD_eq_default _ _ hk,
        List.getD_eq_getElem?_getD, List.getElem?_getD_replicate_default_eq]
  simp only [groupAt, hbit]

/-- The group that a stream has between two parts of it. -/
theorem groupAt_middle {w j : Nat} {before group after : List Bool} (hbefore : before.length = j * w)
    (hgroup : group.length = w) : groupAt w (before ++ group ++ after) j = numberOf group := by
  refine congrArg numberOf (List.ext_getElem (by simp [hgroup]) fun k _ hk => ?_)
  rw [List.getElem_map, List.getElem_range, List.append_assoc, List.getD_append_right _ _ _ _ (by omega),
    List.getD_append _ _ _ _ (by omega), List.getD_eq_getElem _ _ (by omega)]
  simp [hbefore]

/-- A group within a stream, as digits of the number the whole stream spells. -/
theorem groupAt_eq_div_mod {w : Nat} {stream : List Bool} {j : Nat} (hj : (j + 1) * w ≤ stream.length) :
    groupAt w stream j = numberOf stream / 2 ^ (stream.length - (j + 1) * w) % 2 ^ w := by
  have hsucc : (j + 1) * w = j * w + w := Nat.succ_mul j w
  obtain ⟨before, group, after, rfl, hbefore, hgroup⟩ :
      ∃ before group after, stream = before ++ group ++ after ∧ before.length = j * w ∧ group.length = w :=
    ⟨stream.take (j * w), (stream.drop (j * w)).take w, (stream.drop (j * w)).drop w,
      by rw [List.append_assoc, List.take_append_drop, List.take_append_drop], by simp; omega, by simp; omega⟩
  have hafter : (before ++ group ++ after).length - (j + 1) * w = after.length := by
    simp only [List.length_append]
    omega
  have hgroup_lt : numberOf group < 2 ^ w := hgroup ▸ numberOf_lt group
  have hdigits : numberOf (before ++ group ++ after) / 2 ^ after.length = numberOf before * 2 ^ w + numberOf group := by
    rw [numberOf_append, Nat.mul_comm, Nat.mul_add_div (by positivity), Nat.div_eq_of_lt (numberOf_lt after),
      Nat.add_zero, numberOf_append, hgroup]
  rw [groupAt_middle hbefore hgroup, hafter, hdigits, Nat.mul_add_mod_of_lt hgroup_lt]

/-! ### The loop on a stream that grows -/

/-- The digits above `k + n` do not change when `n` bits are shifted in below. -/
theorem shift_in_shiftRight {n v : Nat} (hv : v < 2 ^ n) (a k : Nat) : (a <<< n ||| v) >>> (k + n) = a >>> k := by
  rw [Nat.add_comm, Nat.shiftRight_add, shift_or_eq a n v hv, Nat.shiftRight_eq_div_pow _ n, Nat.mul_comm,
    Nat.mul_add_div (by positivity), Nat.div_eq_of_lt hv, Nat.add_zero]

/-- The digits below `k + n` are those below `k` with the `n` bits shifted in. -/
theorem shift_in_mask {n v : Nat} (hv : v < 2 ^ n) (a k : Nat) :
    (a <<< n ||| v) &&& mask (k + n) = (a &&& mask k) <<< n ||| v := by
  rw [and_mask, and_mask, shift_or_eq a n v hv, shift_or_eq _ n v hv, Nat.add_comm k n, Nat.pow_add, Nat.mod_mul,
    Nat.mul_add_mod_of_lt hv, Nat.mul_comm a, Nat.mul_add_div (by positivity), Nat.div_eq_of_lt hv,
    Nat.add_zero, Nat.mul_comm, Nat.add_comm]

/-- The loop on the cursor that an earlier run of it left, after `n` bits of `v` were shifted in. -/
def feedCursor (width n v : Nat) (d : Drained) : Drained :=
  let e := drain width (d.held + n) (d.acc <<< n ||| v) (d.held + n)
  { e with chunks := d.chunks ++ e.chunks }

theorem drain_of_lt {width h : Nat} (hlt : h < width) (fuel a : Nat) : drain width fuel a h = ⟨[], a, h⟩ := by
  cases fuel with
  | zero => rfl
  | succ fuel => rw [drain, if_neg (Nat.not_le_of_lt hlt)]

theorem drain_of_le {width h : Nat} (hle : width ≤ h) (fuel a : Nat) :
    drain width (fuel + 1) a h =
      let rest := drain width fuel (a &&& mask (h - width)) (h - width)
      { rest with chunks := ((a >>> (h - width)) &&& mask width) :: rest.chunks } := by
  rw [drain, if_pos hle]

/-- More fuel than bits held makes no difference. -/
theorem drain_fuel {width fuel h a : Nat} (hw : 0 < width) (hfuel : h ≤ fuel) (ha : a < 2 ^ h) :
    drain width fuel a h = drain width h a h := by
  rw [drain_spec hw hfuel ha, drain_spec hw le_rfl ha]

/-- Draining a value, shifting `n` bits in and draining on is draining everything at once. -/
theorem drain_shift_in {width n v : Nat} (hw : 0 < width) (hv : v < 2 ^ n) :
    ∀ {fuel h a : Nat}, h ≤ fuel → a < 2 ^ h →
      drain width (fuel + n) (a <<< n ||| v) (h + n) = feedCursor width n v (drain width fuel a h)
  | 0, h, a, hfuel, ha => by
    obtain rfl : h = 0 := Nat.le_zero.mp hfuel
    rfl
  | fuel + 1, h, a, hfuel, ha => by
    by_cases hle : width ≤ h
    · have hlow : a &&& mask (h - width) < 2 ^ (h - width) := and_mask a _ ▸ Nat.mod_lt _ (by positivity)
      have hsub : h + n - width = h - width + n := by omega
      rw [Nat.add_right_comm, drain_of_le (hle.trans (Nat.le_add_right h n)), drain_of_le hle, hsub,
        shift_in_shiftRight hv, shift_in_mask hv]
      simp only [drain_shift_in hw hv (show h - width ≤ fuel by omega) hlow]
      rfl
    · rw [drain_of_lt (Nat.lt_of_not_le hle), drain_fuel hw (by omega) (shift_in_lt ha hv)]
      rfl

/-- The loop on the whole of a stream. -/
def regroup (width : Nat) (stream : List Bool) : Drained :=
  drain width stream.length (numberOf stream) stream.length

@[simp] theorem regroup_nil (width : Nat) : regroup width [] = ⟨[], 0, 0⟩ := rfl

/-- Feeding the cursor `n` bits is regrouping the stream with those bits appended. -/
theorem regroup_append_bitsOf {width n v : Nat} (hw : 0 < width) (hv : v < 2 ^ n) (stream : List Bool) :
    regroup width (stream ++ bitsOf n v) = feedCursor width n v (regroup width stream) := by
  rw [regroup, numberOf_append, numberOf_bitsOf, Nat.mod_eq_of_lt hv, List.length_append, length_bitsOf,
    ← shift_or_eq _ _ _ hv]
  exact drain_shift_in hw hv le_rfl (numberOf_lt stream)

theorem regroup_eq {width : Nat} (hw : 0 < width) (stream : List Bool) :
    regroup width stream =
      ⟨(List.range (stream.length / width)).map (groupAt width stream),
        numberOf stream % 2 ^ (stream.length % width), stream.length % width⟩ := by
  rw [regroup, drain_spec hw le_rfl (numberOf_lt stream)]
  congr 1
  refine List.map_congr_left fun j hj => (groupAt_eq_div_mod ?_).symm
  exact (Nat.le_div_iff_mul_le hw).mp (List.mem_range.mp hj)

/-- The group in which a stream ends: the bits left over stand high, with zeros below (R57, 42_pack.md R145). -/
theorem groupAt_last {w : Nat} (hw : 0 < w) (stream : List Bool) :
    groupAt w stream (stream.length / w) =
      (numberOf stream % 2 ^ (stream.length % w)) <<< (w - stream.length % w) &&& mask w := by
  set q := stream.length / w
  set r := stream.length % w
  have hr : r < w := Nat.mod_lt _ hw
  have hlen : w * q + r = stream.length := Nat.div_add_mod _ _
  have hpad : (stream ++ List.replicate (w - r) false).length = (q + 1) * w := by
    rw [List.length_append, List.length_replicate, Nat.succ_mul, Nat.mul_comm q]
    omega
  have hnumber : numberOf (stream ++ List.replicate (w - r) false) = numberOf stream * 2 ^ (w - r) := by
    rw [← bitsOf_zero_right, numberOf_append, numberOf_bitsOf, length_bitsOf, Nat.zero_mod, Nat.add_zero]
  have hpow : 2 ^ w = 2 ^ r * 2 ^ (w - r) := by rw [← Nat.pow_add, Nat.add_sub_cancel' hr.le]
  rw [← groupAt_append_zeros w stream (w - r), groupAt_eq_div_mod hpad.ge, hpad, hnumber, Nat.sub_self, Nat.pow_zero,
    Nat.div_one, and_mask, Nat.shiftLeft_eq, hpow, Nat.mul_mod_mul_right, Nat.mul_mod_mul_right, Nat.mod_mod]

end Sys2Proof.Proofs
end

section
/-! PROOFS. Whole jobs (spec 42_pack.md, 43_unpack.md): within a job the state is a function of the stream so far, each
data command appends its bits to that stream, and FLUSH closes the job. -/

namespace Sys2Proof.Proofs

open Sys2Proof Sys2Proof.Machine

/-! ### Runs of commands -/

theorem runInstrs_cons {i : Instr} {s t : State} (h : exec i s = .next t) (is : List Instr) :
    runInstrs (i :: is) s = runInstrs is t := by
  simp only [runInstrs, h]

theorem runInstrs_append {is : List Instr} {s t : State} (h : runInstrs is s = .next t) (js : List Instr) :
    runInstrs (is ++ js) s = runInstrs js t := by
  induction is generalizing s with
  | nil =>
    obtain rfl := Host.Outcome.next.inj h
    rfl
  | cons i is ih =>
    simp only [runInstrs] at h
    split at h
    · rw [List.cons_append, runInstrs_cons ‹_›, ih h]
    · cases h
    · cases h

/-! ### The state within a job -/

/-- The state within a job in mode `m` opened from `s`, after `n` data commands: `d` is what the regrouping loop made
of the stream so far, and each chunk of it is an item. -/
def midJob (s : State) (m : Mode) (item : Nat → Item) (n : Nat) (d : Drained) : State :=
  { s with
    mode := m
    acc := BitVec.ofNat 18 d.acc
    held := BitVec.ofNat 5 d.held
    inCount := BitVec.ofNat 32 n
    outCount := BitVec.ofNat 32 d.chunks.length
    fifo := s.fifo ++ d.chunks.map item }

theorem openJob_eq_midJob (s : State) (m : Mode) (item : Nat → Item) (width : Nat) :
    s.openJob m = midJob s m item 0 (regroup width []) := by
  simp [State.openJob, midJob]

/-- ACC and HELD hold the cursor of a stream in full. -/
theorem midJob_cursor {width : Nat} (hw : 0 < width) (hw10 : width ≤ 10) (s : State) (m : Mode) (item : Nat → Item)
    (n : Nat) (stream : List Bool) :
    (midJob s m item n (regroup width stream)).acc.toNat = (regroup width stream).acc ∧
      (midJob s m item n (regroup width stream)).held.toNat = (regroup width stream).held := by
  have hheld : stream.length % width < width := Nat.mod_lt _ hw
  have hacc : numberOf stream % 2 ^ (stream.length % width) < 2 ^ (stream.length % width) :=
    Nat.mod_lt _ (by positivity)
  have hpow : 2 ^ (stream.length % width) ≤ 2 ^ 10 := Nat.pow_le_pow_right (by decide) (by omega)
  simp only [midJob, regroup_eq hw, BitVec.toNat_ofNat]
  exact ⟨Nat.mod_eq_of_lt (by omega), Nat.mod_eq_of_lt (by omega)⟩

/-- What a data command does to a job that appends `k` bits of `v` to the stream and lets the loop run on the cursor. -/
theorem midJob_append_bitsOf {width k v : Nat} (hw : 0 < width) (hw10 : width ≤ 10) (hv : v < 2 ^ k) (s : State)
    (m : Mode) (item : Nat → Item) (n : Nat) (stream : List Bool) :
    let t := midJob s m item n (regroup width stream)
    let d := drain width (t.held.toNat + k) (t.acc.toNat <<< k ||| v) (t.held.toNat + k)
    midJob s m item (n + 1) (regroup width (stream ++ bitsOf k v)) =
      { t with
        fifo := t.fifo ++ d.chunks.map item
        outCount := t.outCount + BitVec.ofNat 32 d.chunks.length
        acc := BitVec.ofNat 18 d.acc, held := BitVec.ofNat 5 d.held
        inCount := t.inCount + 1#32 } := by
  obtain ⟨hacc, hheld⟩ := midJob_cursor hw hw10 s m item n stream
  simp only [hacc, hheld]
  simp only [midJob, regroup_append_bitsOf hw hv, feedCursor, List.map_append, List.append_assoc, List.length_append,
    BitVec.ofNat_add]

/-! ### The pack job (R57, R141, R146) -/

/-- The state within a pack job opened from `s`, after `n` bytes with the bits `stream`. -/
abbrev packing (s : State) (n : Nat) (stream : List Bool) : State :=
  midJob s .pack (packItem s.profile s.emitIdx) n (regroup (chunkBits s.profile) stream)

@[simp] theorem length_byteStream (d : List Byte) : (byteStream d).length = 8 * d.length := by
  simp [byteStream, Nat.mul_comm]

/-- PUSH_BYTE appends the byte's bits to the stream. -/
theorem exec_pushByte_packing (b : Byte) (s : State) (n : Nat) (stream : List Bool) :
    exec (.pushByte b) (packing s n stream) = .next (packing s (n + 1) (stream ++ bitsOf 8 b.toNat)) := by
  show Host.Outcome.next (packByte b (packing s n stream)) = _
  rw [packByte_eq, packing, packing, midJob_append_bitsOf (chunkBits_pos _) (chunkBits_le _) b.isLt]
  rfl

theorem runInstrs_pushBytes (d : List Byte) (s : State) (n : Nat) (stream : List Bool) :
    runInstrs (d.map .pushByte) (packing s n stream) =
      .next (packing s (n + d.length) (stream ++ byteStream d)) := by
  induction d generalizing n stream with
  | nil => simp [runInstrs, byteStream]
  | cons b d ih =>
    rw [List.map_cons, runInstrs_cons (exec_pushByte_packing b s n stream), ih]
    simp only [byteStream, List.flatMap_cons, List.append_assoc, List.length_cons, Nat.add_assoc, Nat.add_comm 1]

theorem exec_startPack {s : State} (hjob : s.mode.jobOpen = false) : exec .startPack s = .next (s.openJob .pack) := by
  show execStartPack s = _
  cases hm : s.mode with
  | idle | error => simp only [execStartPack, hm]
  | pack | unpack => simp [hm, Mode.jobOpen] at hjob

/-- The state after START_PACK and the bytes `d` (R142). -/
theorem runInstrs_startPack_pushBytes (d : List Byte) {s : State} (hjob : s.mode.jobOpen = false) :
    runInstrs ([.startPack] ++ d.map .pushByte) s = .next (packing s d.length (byteStream d)) := by
  rw [List.singleton_append, runInstrs_cons (exec_startPack hjob), openJob_eq_midJob, runInstrs_pushBytes,
    Nat.zero_add, List.nil_append]

/-- One chunk for each whole group, and one more if bits are left (R146). -/
theorem chunkCount_eq {cb : Nat} (hcb : 0 < cb) (n : Nat) :
    chunkCount cb n = if 8 * n % cb = 0 then 8 * n / cb else 8 * n / cb + 1 := by
  have hround : 8 * n + cb - 1 = cb * (8 * n / cb) + (8 * n % cb + cb - 1) := by
    have := Nat.div_add_mod (8 * n) cb
    omega
  have hleft := Nat.mod_lt (8 * n) hcb
  rw [chunkCount, hround, Nat.mul_add_div hcb]
  split
  · exact Nat.add_eq_left.mpr (Nat.div_eq_of_lt (by omega))
  · exact congrArg _ ((Nat.div_eq_iff hcb).mpr (by omega))

/-- PackFinal completes the chunks of the stream with the zero-padded last one, if bits are left (R145). -/
theorem packFinal_packing (d : List Byte) (s : State) (n : Nat) :
    packFinal (packing s n (byteStream d)) =
      { packing s n (byteStream d) with
        fifo := s.fifo ++ (packedIndices (chunkBits s.profile) d).map (packItem s.profile s.emitIdx)
        outCount := BitVec.ofNat 32 (chunkCount (chunkBits s.profile) d.length) } := by
  have hcb := chunkBits_pos s.profile
  have hregroup := regroup_eq hcb (byteStream d)
  obtain ⟨hacc, hheld⟩ := midJob_cursor hcb (chunkBits_le s.profile) s .pack (packItem s.profile s.emitIdx) n
    (byteStream d)
  have hheld0 : (packing s n (byteStream d)).held = 0#5 ↔ 8 * d.length % chunkBits s.profile = 0 := by
    rw [← BitVec.toNat_inj, hheld, hregroup, length_byteStream]
    rfl
  rw [packFinal, hacc, hheld, packedIndices, chunkCount_eq hcb]
  simp only [hheld0]
  split
  · simp [packing, midJob, hregroup]
  · have hlast := groupAt_last hcb (byteStream d)
    simp only [length_byteStream] at hlast
    rw [emitIndex_eq]
    simp [packing, midJob, hregroup, List.range_succ, hlast, BitVec.ofNat_add]

/-- Settles O22: START_PACK and the bytes leave the chunks and the cursor of their stream, and FLUSH adds the padded
last chunk and END. -/
theorem packJobRegroupsTheByteStreamMostSignificantBitFirst :
    Obligations.PackJobRegroupsTheByteStreamMostSignificantBitFirst := by
  intro d s hjob cb
  rw [packJob, runInstrs_append (runInstrs_startPack_pushBytes d hjob)]
  show Host.Outcome.next (finishJob (packFinal (packing s d.length (byteStream d)))) = _
  rw [packFinal_packing]
  rfl

/-! ### The unpack job (R58, R165, R168) -/

/-- The item of the reconstructed byte `v` (R160). -/
def emittedByte (v : Nat) : Item :=
  ⟨.byte, BitVec.ofNat 32 v⟩

theorem byteItem_ofNat {v : Nat} (hv : v < 2 ^ 8) : byteItem (BitVec.ofNat 8 v) = emittedByte v := by
  have hdata : (BitVec.ofNat 8 v).setWidth 32 = BitVec.ofNat 32 v := by
    apply BitVec.eq_of_toNat_eq
    simp only [BitVec.toNat_setWidth, BitVec.toNat_ofNat, Nat.mod_eq_of_lt hv]
  rw [byteItem, hdata, emittedByte]

/-- The state within an unpack job opened from `s`, after `n` indices with the bits `stream`. -/
abbrev unpacking (s : State) (n : Nat) (stream : List Bool) : State :=
  midJob s .unpack emittedByte n (regroup 8 stream)

@[simp] theorem length_indexStream (cb : Nat) (xs : List Nat) : (indexStream cb xs).length = cb * xs.length := by
  simp [indexStream, Nat.mul_comm]

theorem exec_unpackCommand {s : State} (hmode : s.mode = .unpack) (bySymbol : Bool) {x : Nat}
    (hx : x < symbolCount s.profile) :
    exec (unpackCommand s.profile bySymbol x) s = .next (unpackIndex x s).countIn := by
  cases bySymbol with
  | true =>
    show execPushSym (symtab s.profile x) s = _
    simp only [execPushSym, hmode, (revLookup_eq_some_iff _ _ x).mpr ⟨hx, rfl⟩]
  | false =>
    have hcount := symbolCount_le s.profile
    have hnat : (BitVec.ofNat 32 x).toNat = x := by rw [BitVec.toNat_ofNat]; omega
    show execPushIdx (BitVec.ofNat 32 x) s = _
    simp only [execPushIdx, hmode, hnat, if_neg (Nat.not_le_of_lt hx)]

/-- PUSH_SYM and PUSH_IDX append the index's bits to the stream. -/
theorem exec_unpackCommand_unpacking {s : State} (bySymbol : Bool) {x : Nat} (hx : x < symbolCount s.profile) (n : Nat)
    (stream : List Bool) :
    exec (unpackCommand s.profile bySymbol x) (unpacking s n stream) =
      .next (unpacking s (n + 1) (stream ++ bitsOf (chunkBits s.profile) x)) := by
  refine (exec_unpackCommand (s := unpacking s n stream) rfl bySymbol hx).trans (congrArg _ ?_)
  rw [unpackIndex_eq, unpacking, unpacking,
    midJob_append_bitsOf (by decide) (by decide) (symbolCount_eq_pow s.profile ▸ hx)]
  rfl

theorem runInstrs_unpackCommands (cs : List (Bool × Nat)) {s : State} (hcs : ∀ c ∈ cs, c.2 < symbolCount s.profile)
    (n : Nat) (stream : List Bool) :
    runInstrs (cs.map fun c => unpackCommand s.profile c.1 c.2) (unpacking s n stream) =
      .next (unpacking s (n + cs.length) (stream ++ indexStream (chunkBits s.profile) (cs.map Prod.snd))) := by
  induction cs generalizing n stream with
  | nil => simp [runInstrs, indexStream]
  | cons c cs ih =>
    obtain ⟨hc, hcs⟩ := List.forall_mem_cons.mp hcs
    rw [List.map_cons, runInstrs_cons (exec_unpackCommand_unpacking c.1 hc n stream), ih hcs]
    simp only [indexStream, List.map_cons, List.flatMap_cons, List.append_assoc, List.length_cons, Nat.add_assoc,
      Nat.add_comm 1]

theorem exec_startUnpack {s : State} (hjob : s.mode.jobOpen = false) :
    exec .startUnpack s = .next (s.openJob .unpack) := by
  show execStartUnpack s = _
  cases hm : s.mode with
  | idle | error => simp only [execStartUnpack, hm]
  | pack | unpack => simp [hm, Mode.jobOpen] at hjob

theorem runInstrs_startUnpack_unpackCommands (cs : List (Bool × Nat)) {s : State} (hjob : s.mode.jobOpen = false)
    (hcs : ∀ c ∈ cs, c.2 < symbolCount s.profile) :
    runInstrs ([.startUnpack] ++ cs.map fun c => unpackCommand s.profile c.1 c.2) s =
      .next (unpacking s cs.length (indexStream (chunkBits s.profile) (cs.map Prod.snd))) := by
  rw [List.singleton_append, runInstrs_cons (exec_startUnpack hjob), openJob_eq_midJob, runInstrs_unpackCommands cs hcs,
    Nat.zero_add, List.nil_append]

/-- The bytes of an index stream are the items that the loop has emitted for it. -/
theorem unpackedBytes_items (cb : Nat) (xs : List Nat) :
    (unpackedBytes cb xs).map byteItem = (regroup 8 (indexStream cb xs)).chunks.map emittedByte := by
  simp only [unpackedBytes, regroup_eq (by decide : 0 < 8), length_indexStream, List.map_map]
  exact List.map_congr_left fun j _ => byteItem_ofNat (groupAt_lt 8 _ j)

/-- Settles O28: START_UNPACK and the indices leave the bytes and the cursor of their stream, and FLUSH adds END. -/
theorem unpackJobRegroupsTheIndexStreamMostSignificantBitFirst :
    Obligations.UnpackJobRegroupsTheIndexStreamMostSignificantBitFirst := by
  intro cs s hjob hcs cb
  have hcount : (regroup 8 (indexStream cb (cs.map Prod.snd))).chunks.length = cb * cs.length / 8 := by
    simp [regroup_eq]
  rw [runInstrs_append (runInstrs_startUnpack_unpackCommands cs hjob hcs), unpackedBytes_items, ← hcount]
  rfl

end Sys2Proof.Proofs
end

section
/-! PROOFS. The memory family (spec 20_memory.md), ports and edges: when a word is accepted, what an edge does to the
result FIFO, the hold, and the result stream over many edges. -/

namespace Sys2Proof.Proofs

open Sys2Proof Sys2Proof.Machine

/-! ### Acceptance (R51, R52) -/

/-- Settles O45. -/
theorem cmdReadyNeedsTwoFreeEntriesOutOfReset : Obligations.CmdReadyNeedsTwoFreeEntriesOutOfReset := by
  have hdepth := Config.depthAboveTwo.isLt
  refine ⟨Nat.le_add_left _ _, ?_, fun s => ?_⟩
  · unfold outDepth
    omega
  · rw [State.cmdReady, Bool.and_eq_true, hasRoom_iff]

theorem acceptedWord_of_room {s : State} (hrst : s.currentEdge.rstN = true) (hroom : s.hasRoom = true) :
    s.acceptedWord = s.cmdOnPort := by
  simp [State.acceptedWord, State.cmdReady, hrst, hroom]

theorem acceptedWord_of_no_room {s : State} (hroom : s.hasRoom = false) : s.acceptedWord = none := by
  simp [State.acceptedWord, State.cmdReady, hroom]

theorem step_of_accepted {s t : State} {w : CmdWord} (hrst : s.currentEdge.rstN = true)
    (hacc : s.acceptedWord = some w) (hex : execute w s = .next t) : step s = .next (s.afterAccept t) := by
  simp only [step, hrst, hacc, hex]

theorem step_of_not_accepted {s : State} (hrst : s.currentEdge.rstN = true) (hacc : s.acceptedWord = none) :
    step s = if s.heldForGood then .fault .engineHeld else .next s.afterNoAccept := by
  simp only [step, hrst, hacc]

/-- While an edge is scheduled, the engine waits at it (log 5). -/
theorem step_of_waiting {s : State} (hrst : s.currentEdge.rstN = true) (hacc : s.acceptedWord = none)
    (hedges : s.edges ≠ []) : step s = .next s.afterNoAccept := by
  simp [step_of_not_accepted hrst hacc, State.heldForGood, hedges]

/-- Settles O54. -/
theorem acceptedCommandFindsRoomForAllItsPushes : Obligations.AcceptedCommandFindsRoomForAllItsPushes :=
  fun _ _ _ hinv hacc hex => accepted_keeps_fifoOk hinv.1 hacc hex

/-! ### What a command leaves to the ports (R21, R33, R63) -/

/-- The position and the host's side of the ports stay as they are. -/
def KeepsHostSide (s t : State) : Prop :=
  t.cmdPos = s.cmdPos ∧ t.offered = s.offered ∧ t.edges = s.edges

theorem completes_keepsHostSide {s t : State} {i : Instr} (hdone : Completes s i t) : KeepsHostSide s t := by
  cases hdone with
  | flushPack =>
    obtain ⟨is, -, hfinal⟩ := packFinal_eq s
    simp [KeepsHostSide, hfinal]
  | _ => simp [KeepsHostSide, packByte_eq, unpackIndex_eq]

theorem execute_keepsHostSide {w : CmdWord} {s t : State} (hex : execute w s = .next t) : KeepsHostSide s t := by
  obtain ⟨e, rfl⟩ | ⟨i, -, hdone⟩ := execute_effects hex
  · exact ⟨rfl, rfl, rfl⟩
  · exact completes_keepsHostSide hdone

theorem execute_appends {w : CmdWord} {s t : State} (hex : execute w s = .next t) :
    ∃ new, t.fifo = s.fifo ++ new := by
  obtain ⟨e, rfl⟩ | ⟨i, -, hdone⟩ := execute_effects hex
  · exact ⟨_, rfl⟩
  · obtain ⟨new, hfifo, -⟩ := completes_countsPushes hdone
    exact ⟨new, hfifo⟩

/-! ### The result port (R53) -/

theorem resultOnPort_of_rstN {s : State} (hrst : s.currentEdge.rstN = true) : s.resultOnPort = s.fifo.head? := by
  simp [State.resultOnPort, hrst]

theorem poppedItem_of_rstN {s : State} (hrst : s.currentEdge.rstN = true) :
    s.poppedItem = if s.currentEdge.resReady = true then s.fifo.head? else none := by
  rw [State.poppedItem, resultOnPort_of_rstN hrst]

theorem dropPopped_of_rstN {s : State} (hrst : s.currentEdge.rstN = true) (t : State) :
    s.dropPopped t = if s.currentEdge.resReady = true ∧ s.fifo ≠ [] then t.fifo.tail else t.fifo := by
  rw [State.dropPopped, poppedItem_of_rstN hrst]
  cases s.currentEdge.resReady <;> simp [← List.isSome_head?]

/-- The pop takes the head as it was before the edge, so what a command appends stays. -/
theorem dropPopped_append {s t : State} {new : List Item} (hrst : s.currentEdge.rstN = true)
    (hfifo : t.fifo = s.fifo ++ new) :
    s.dropPopped t = (if s.currentEdge.resReady = true then s.fifo.tail else s.fifo) ++ new := by
  rw [dropPopped_of_rstN hrst, hfifo]
  cases s.fifo with
  | nil => simp
  | cons x rest => cases s.currentEdge.resReady <;> simp

theorem dropPopped_self {s : State} (hrst : s.currentEdge.rstN = true) :
    s.dropPopped s = if s.currentEdge.resReady = true then s.fifo.tail else s.fifo := by
  simpa using dropPopped_append hrst (List.append_nil s.fifo).symm

theorem pushedAtEdge_of_accepted {s t : State} {w : CmdWord} {new : List Item} (hacc : s.acceptedWord = some w)
    (hex : execute w s = .next t) (hfifo : t.fifo = s.fifo ++ new) : pushedAtEdge s = new := by
  simp [pushedAtEdge, hacc, hex, hfifo]

theorem pushedAtEdge_of_not_accepted {s : State} (hacc : s.acceptedWord = none) : pushedAtEdge s = [] := by
  simp [pushedAtEdge, hacc]

/-- The FIFO after an edge out of reset: without the head if the host takes it, and with the pushes behind. -/
theorem step_fifo {s t : State} (hrst : s.currentEdge.rstN = true) (hstep : step s = .next t) :
    t.fifo = (if s.currentEdge.resReady = true then s.fifo.tail else s.fifo) ++ pushedAtEdge s := by
  obtain ⟨hreset, -⟩ | ⟨-, ⟨w, u, hacc, hex, rfl⟩ | ⟨hacc, -, rfl⟩⟩ := step_cases hstep
  · simp [hrst] at hreset
  · obtain ⟨new, hfifo⟩ := execute_appends hex
    rw [pushedAtEdge_of_accepted hacc hex hfifo, afterAccept_fifo, dropPopped_append hrst hfifo]
  · rw [pushedAtEdge_of_not_accepted hacc, List.append_nil, afterNoAccept_fifo, dropPopped_self hrst]

/-- Settles O56. -/
theorem resultPortPresentsTheHeadItemAndAPopRemovesIt : Obligations.ResultPortPresentsTheHeadItemAndAPopRemovesIt := by
  intro s hrst
  have hport := resultOnPort_of_rstN hrst
  have hvalid : s.resValid = true ↔ s.fifo ≠ [] := by rw [State.resValid, hport, List.isSome_head?]
  refine ⟨hvalid, fun x rest hfifo => ⟨?_, ?_⟩, fun t => step_fifo hrst⟩
  · rw [State.resTag, hport, hfifo]
    obtain ⟨tag, data⟩ := x
    cases tag <;> rfl
  · rw [State.resData, hport, hfifo]
    rfl

/-! ### The edge of a command and the hold (R51, R52, 70_reset_and_hazards.md R241) -/

/-- Settles O46. -/
theorem stepRunsTheDecodedInstruction : Obligations.StepRunsTheDecodedInstruction := by
  intro s t w ws i hrst hvalid hoffered hroom hdecode hexec
  have hacc : s.acceptedWord = some w := by
    simp [acceptedWord_of_room hrst hroom, State.cmdOnPort, hvalid, hoffered]
  have hex : execute w s = .next t := by simp only [execute, hdecode, hexec]
  obtain ⟨hpos, hoffered', hedges⟩ := execute_keepsHostSide hex
  rw [step_of_accepted hrst hacc hex, State.afterAccept, dropPopped_of_rstN hrst, hpos, hoffered', hoffered, hedges,
    List.tail_cons]

/-- At an edge at which the engine is held, only the pop changes the block. -/
theorem step_of_held {s : State} (hrst : s.currentEdge.rstN = true) (hroom : s.hasRoom = false)
    (hedges : s.edges ≠ []) :
    step s = .next { s with
      fifo := if s.currentEdge.resReady = true then s.fifo.tail else s.fifo, edges := s.edges.tail } := by
  rw [step_of_waiting hrst (acceptedWord_of_no_room hroom) hedges, State.afterNoAccept, dropPopped_self hrst]

/-- With no edge scheduled the coming one is quiet: nothing can lift the hold (log 4, log 5). -/
theorem step_of_held_for_good {s : State} (hroom : s.hasRoom = false) (hedges : s.edges = [])
    (hoffered : s.offered ≠ []) : step s = .fault .engineHeld := by
  have hrst : s.currentEdge.rstN = true := by simp [State.currentEdge, hedges, quietEdge]
  rw [step_of_not_accepted hrst (acceptedWord_of_no_room hroom)]
  simp [State.heldForGood, hedges, hoffered, hroom]

/-- Settles O48: with one entry free there is no room, and of what the held edge changes only the pop frees a second. -/
theorem aHeldCommandIsNeitherExecutedNorDropped : Obligations.AHeldCommandIsNeitherExecutedNorDropped := by
  refine ⟨fun s => step_of_held, fun s => step_of_held_for_good, fun s hrst hedges hone => ?_⟩
  have hroom : s.hasRoom = false := by
    rw [← Bool.not_eq_true, hasRoom_iff]
    omega
  refine ⟨_, step_of_held hrst hroom hedges, rfl, ?_⟩
  have hdepth : 2 ≤ outDepth := Nat.le_add_left _ _
  rw [hasRoom_iff]
  cases s.currentEdge.resReady with
  | true =>
    simp only [if_true, List.length_tail, iff_true]
    omega
  | false =>
    simp only [Bool.false_eq_true, if_false, iff_false]
    omega

/-! ### The result stream (R63) -/

theorem run_succ_eq_next {M : Host.Core} {n : Nat} {s t : M.State} (h : M.run (n + 1) s = .next t) :
    ∃ u, M.step s = .next u ∧ M.run n u = .next t := by
  unfold Host.Core.run at h
  split at h
  · exact ⟨_, ‹_›, h⟩
  · cases h
  · cases h

theorem step_edges {s t : State} (hstep : step s = .next t) : t.edges = s.edges.tail := by
  obtain ⟨-, rfl⟩ | ⟨-, ⟨w, u, -, hex, rfl⟩ | ⟨-, -, rfl⟩⟩ := step_cases hstep
  · rfl
  · obtain ⟨-, -, hedges⟩ := execute_keepsHostSide hex
    rw [afterAccept_edges, hedges]
  · rfl

theorem currentEdge_rstN_of_edges {s : State} (hedges : ∀ e ∈ s.edges, e.rstN = true) :
    s.currentEdge.rstN = true := by
  unfold State.currentEdge
  cases h : s.edges with
  | nil => rfl
  | cons e es => exact hedges e (by simp [h])

/-- One edge: the item popped and the FIFO after it are the FIFO before it and the pushes. -/
theorem popped_append_step_fifo {s t : State} (hrst : s.currentEdge.rstN = true) (hstep : step s = .next t) :
    s.poppedItem.toList ++ t.fifo = s.fifo ++ pushedAtEdge s := by
  rw [step_fifo hrst hstep, poppedItem_of_rstN hrst, ← List.append_assoc]
  congr 1
  split
  · cases s.fifo <;> rfl
  · rfl

/-- Settles O55, by induction on the number of edges. -/
theorem resultStreamIsTheConcatenationOfThePushes : Obligations.ResultStreamIsTheConcatenationOfThePushes := by
  intro n
  induction n with
  | zero =>
    intro s t _ hrun
    obtain rfl := Host.Outcome.next.inj hrun
    simp [poppedOver, pushedOver]
  | succ n ih =>
    intro s t hedges hrun
    obtain ⟨u, hstep, hrest⟩ : ∃ u, step s = .next u ∧ _ := run_succ_eq_next hrun
    have hedges' : ∀ e ∈ u.edges, e.rstN = true := fun e he =>
      hedges e (List.mem_of_mem_tail (step_edges hstep ▸ he))
    have hedge := popped_append_step_fifo (currentEdge_rstN_of_edges hedges) hstep
    simp only [poppedOver, pushedOver, hstep]
    calc s.poppedItem.toList ++ poppedOver n u ++ t.fifo
      _ = s.poppedItem.toList ++ (u.fifo ++ pushedOver n u) := by rw [List.append_assoc, ih u t hedges' hrest]
      _ = s.fifo ++ pushedAtEdge s ++ pushedOver n u := by rw [← List.append_assoc, hedge]
      _ = s.fifo ++ (pushedAtEdge s ++ pushedOver n u) := List.append_assoc _ _ _

end Sys2Proof.Proofs
end

section
/-! PROOFS. The encoding family (spec 30_encoding.md): decoding inverts encoding, a word is legal exactly when it is the
word of a command, every other word enters ILLEGAL_CMD, the rows of the opcode map, and the words of assembler lines. -/

namespace Sys2Proof.Proofs

open Sys2Proof Sys2Proof.Machine Sys2Proof.Laws

/-! ### Decoding inverts encoding (R80, R82, R83) -/

/-- The opcode of a command (R83). -/
def opcodeOf : Instr → Opcode
  | .nop => .nop
  | .startPack => .startPack
  | .startUnpack => .startUnpack
  | .flush => .flush
  | .abort => .abort
  | .pushByte _ => .pushByte
  | .pushSym _ => .pushSym
  | .pushIdx _ => .pushIdx
  | .lutFwd _ => .lutFwd
  | .lutRev _ => .lutRev
  | .wrcsr _ _ => .wrcsr

theorem fieldsOfInstr_opc (i : Instr) : (fieldsOfInstr i).opc = (opcodeOf i).code := by
  cases i <;> rfl

theorem fieldsOfInstr_rsv (i : Instr) : (fieldsOfInstr i).rsv = 0#16 := by
  cases i <;> rfl

theorem fieldsOfInstr_csr {i : Instr} (h : (fieldsOfInstr i).opc ≠ 0x30#8) : (fieldsOfInstr i).csr = 0#8 := by
  cases i with
  | wrcsr a v => exact absurd rfl h
  | _ => rfl

theorem setWidth_byte_high (b : Byte) : (b.setWidth 32).extractLsb' 8 24 = 0#24 := by
  ext k hk
  simp

theorem setWidth_byte_low (b : Byte) : (b.setWidth 32).extractLsb' 0 8 = b := by
  rw [← BitVec.setWidth_eq_extractLsb' (by decide), BitVec.setWidth_setWidth_of_le _ (by decide), BitVec.setWidth_eq]

theorem decodeOperands_fieldsOfInstr (i : Instr) : decodeOperands (fieldsOfInstr i) (opcodeOf i) = .ok i := by
  cases i with
  | pushByte b =>
    simp [fieldsOfInstr, opcodeOf, decodeOperands, requireByte, requireNoCsr, setWidth_byte_high, setWidth_byte_low]
  | _ => rfl

theorem decodeFields_of_opc {f : Fields} {op : Opcode} (hopc : f.opc = op.code) (hrsv : f.rsv = 0#16) :
    decodeFields f = decodeOperands f op := by
  simp only [decodeFields, hopc, opcode_ofCode_code, hrsv, if_true]

@[simp] theorem decode_encode (i : Instr) : decode (encode i) = .ok i := by
  rw [decode_encode_eq, decodeFields_of_opc (fieldsOfInstr_opc i) (fieldsOfInstr_rsv i), decodeOperands_fieldsOfInstr]

/-- Settles O1: OPC gives the opcode back, RSV is 0, and the operands are read where they were written. -/
theorem encodedInstructionDecodesToItself : Obligations.EncodedInstructionDecodesToItself :=
  decode_encode

/-- Settles O5: each word is, by its bits, the encoding of its command. -/
theorem wordsOfTheManualDecodeAsWritten : Obligations.WordsOfTheManualDecodeAsWritten :=
  ⟨decode_encode .nop, decode_encode .startUnpack, decode_encode (.pushByte 0xFF#8),
    decode_encode (.pushSym 0x00030048#32), decode_encode (.pushIdx 48#32), decode_encode (.lutFwd 0xFFFFFFFF#32),
    decode_encode (.lutRev 0x00010069#32), decode_encode (.wrcsr 0x01#8 0x13#32)⟩

/-- Settles O2, by the inversion of the decoder that the state family uses. -/
theorem decodedWordIsTheWordOfItsInstruction : Obligations.DecodedWordIsTheWordOfItsInstruction :=
  fun _ _ => encode_of_decode

theorem decode_eq_ok_iff (w : CmdWord) (i : Instr) : decode w = .ok i ↔ encode i = w :=
  ⟨encode_of_decode, fun h => h ▸ decode_encode i⟩

theorem encode_injective {i j : Instr} (h : encode i = encode j) : i = j := by
  simpa using congrArg decode h

/-! ### Legal words (R84) -/

theorem legal_encode (i : Instr) : legal (encode i) = true := by
  rw [legal, fieldsOf_encode]
  cases i with
  | pushByte b => simp [Fields.legal, fieldsOfInstr, setWidth_byte_high]
  | _ => simp [Fields.legal, fieldsOfInstr]

/-- Legal fields are those of a command: the case split of R84. -/
theorem fieldsOfInstr_of_legal {f : Fields} (h : f.legal = true) : ∃ i, fieldsOfInstr i = f := by
  obtain ⟨opc, csr, rsv, opd⟩ := f
  simp only [Fields.legal, Bool.and_eq_true, Bool.or_eq_true, beq_iff_eq, List.contains_iff_mem, List.mem_cons,
    List.not_mem_nil, or_false] at h
  obtain ⟨rfl, ((⟨⟨hopc, rfl⟩, rfl⟩ | ⟨⟨rfl, rfl⟩, hopd⟩) | ⟨hopc, rfl⟩) | rfl⟩ := h
  · obtain rfl | rfl | rfl | rfl | rfl := hopc
    · exact ⟨.nop, rfl⟩
    · exact ⟨.startPack, rfl⟩
    · exact ⟨.startUnpack, rfl⟩
    · exact ⟨.flush, rfl⟩
    · exact ⟨.abort, rfl⟩
  · exact ⟨.pushByte (opd.extractLsb' 0 8), by rw [fieldsOfInstr, setWidth_low_byte hopd]⟩
  · obtain rfl | rfl | rfl | rfl := hopc
    · exact ⟨.pushSym opd, rfl⟩
    · exact ⟨.pushIdx opd, rfl⟩
    · exact ⟨.lutFwd opd, rfl⟩
    · exact ⟨.lutRev opd, rfl⟩
  · exact ⟨.wrcsr csr opd, rfl⟩

theorem encode_eq_of_fieldsOfInstr {w : CmdWord} {i : Instr} (h : fieldsOfInstr i = fieldsOf w) : encode i = w := by
  rw [encode, h, wordOf_fieldsOf]

theorem legal_iff_encode (w : CmdWord) : legal w = true ↔ ∃ i, encode i = w := by
  constructor
  · intro h
    obtain ⟨i, hi⟩ := fieldsOfInstr_of_legal h
    exact ⟨i, encode_eq_of_fieldsOfInstr hi⟩
  · rintro ⟨i, rfl⟩
    exact legal_encode i

theorem legal_iff_decode (w : CmdWord) : legal w = true ↔ ∃ i, decode w = .ok i := by
  simp only [legal_iff_encode, decode_eq_ok_iff]

theorem execute_of_not_legal {w : CmdWord} (h : legal w = false) (s : State) :
    execute w s = .next (raiseError .illegalCmd w s) := by
  unfold execute
  split
  next i hdecode => simp [(legal_iff_decode w).mpr ⟨i, hdecode⟩] at h
  next => rfl

/-- Settles O3: the legal words are the words of the commands, and those are the words that decode. -/
theorem exactlyLegalWordsDecodeAndOthersRaiseIllegalCmd :
    Obligations.ExactlyLegalWordsDecodeAndOthersRaiseIllegalCmd :=
  ⟨legal_iff_decode, fun _ s h => execute_of_not_legal h s⟩

/-! ### The opcode map (R83) -/

theorem encode_matches_row (i : Instr) : EncodesByRow.Statement i := by
  cases i with
  | nop => exact EncodesByRow.nop
  | startPack => exact EncodesByRow.startPack
  | startUnpack => exact EncodesByRow.startUnpack
  | flush => exact EncodesByRow.flush
  | abort => exact EncodesByRow.abort
  | pushByte b => exact EncodesByRow.pushByte b
  | pushSym sym => exact EncodesByRow.pushSym sym
  | pushIdx x => exact EncodesByRow.pushIdx x
  | lutFwd x => exact EncodesByRow.lutFwd x
  | lutRev sym => exact EncodesByRow.lutRev sym
  | wrcsr a v => exact EncodesByRow.wrcsr a v

/-- Every row fixes OPC and RSV whole; of CSR and OPD a matching word agrees with the row under the row's mask. -/
theorem fields_of_matchesWord {r : OpcodeRow} {w : CmdWord} {csrMask : BitVec 8} {opdMask : BitVec 32}
    (hmask : r.mask = wordOf ⟨.allOnes 8, csrMask, .allOnes 16, opdMask⟩) (h : r.matchesWord w = true) :
    ⟨(fieldsOf r.pattern).opc, (fieldsOf w).csr, (fieldsOf r.pattern).rsv, (fieldsOf w).opd⟩ = fieldsOf w ∧
      (fieldsOf w).csr &&& csrMask = (fieldsOf r.pattern).csr ∧
      (fieldsOf w).opd &&& opdMask = (fieldsOf r.pattern).opd := by
  have hfields := fieldsOf_wordOf ⟨.allOnes 8, csrMask, .allOnes 16, opdMask⟩
  rw [← hmask, fieldsOf, Fields.mk.injEq] at hfields
  obtain ⟨hopc, hcsr, hrsv, hopd⟩ := hfields
  rw [← show w &&& r.mask = r.pattern from beq_iff_eq.mp h]
  simp only [fieldsOf, BitVec.extractLsb'_and, hopc, hcsr, hrsv, hopd, BitVec.and_allOnes, and_self]

/-- The mask of a command without operand leaves one word. -/
theorem eq_of_full_mask {m : String} {p w : CmdWord}
    (h : (⟨m, 0xFFFFFFFFFFFFFFFF#64, p⟩ : OpcodeRow).matchesWord w = true) : p = w := by
  have hw : w &&& BitVec.allOnes 64 = p := beq_iff_eq.mp h
  rw [← hw, BitVec.and_allOnes]

/-- The mask of a command with a 32-bit operand leaves OPD open. -/
theorem fields_of_operand_mask {m : String} {p w : CmdWord}
    (h : (⟨m, 0xFFFFFFFF00000000#64, p⟩ : OpcodeRow).matchesWord w = true) :
    { fieldsOf p with opd := (fieldsOf w).opd } = fieldsOf w := by
  obtain ⟨hfields, hcsr, -⟩ := fields_of_matchesWord (csrMask := .allOnes 8) (opdMask := 0#32) rfl h
  rw [BitVec.and_allOnes] at hcsr
  rwa [hcsr] at hfields

theorem high_of_byte_mask {d : BitVec 32} (h : d &&& 0xFFFFFF00#32 = 0#32) : d.extractLsb' 8 24 = 0#24 := by
  have hhigh := congrArg (BitVec.extractLsb' 8 24) h
  rw [BitVec.extractLsb'_and] at hhigh
  exact BitVec.and_allOnes.symm.trans hhigh

/-- A word that matches a row is the word of a command that bears the row's mnemonic. -/
theorem encode_of_matchesWord {r : OpcodeRow} (hr : r ∈ opcodeTable) {w : CmdWord} (h : r.matchesWord w = true) :
    ∃ i, encode i = w ∧ i.mnemonic = r.mnemonic := by
  simp only [opcodeTable, List.mem_cons, List.not_mem_nil, or_false] at hr
  obtain rfl | rfl | rfl | rfl | rfl | rfl | rfl | rfl | rfl | rfl | rfl := hr
  · exact ⟨.nop, eq_of_full_mask h, rfl⟩
  · exact ⟨.startPack, eq_of_full_mask h, rfl⟩
  · exact ⟨.startUnpack, eq_of_full_mask h, rfl⟩
  · exact ⟨.flush, eq_of_full_mask h, rfl⟩
  · exact ⟨.abort, eq_of_full_mask h, rfl⟩
  · obtain ⟨hfields, hcsr, hopd⟩ :=
      fields_of_matchesWord (csrMask := .allOnes 8) (opdMask := 0xFFFFFF00#32) rfl h
    rw [BitVec.and_allOnes] at hcsr
    rw [hcsr, ← setWidth_low_byte (high_of_byte_mask hopd)] at hfields
    exact ⟨.pushByte ((fieldsOf w).opd.extractLsb' 0 8), encode_eq_of_fieldsOfInstr hfields, rfl⟩
  · exact ⟨.pushSym (fieldsOf w).opd, encode_eq_of_fieldsOfInstr (fields_of_operand_mask h), rfl⟩
  · exact ⟨.pushIdx (fieldsOf w).opd, encode_eq_of_fieldsOfInstr (fields_of_operand_mask h), rfl⟩
  · exact ⟨.lutFwd (fieldsOf w).opd, encode_eq_of_fieldsOfInstr (fields_of_operand_mask h), rfl⟩
  · exact ⟨.lutRev (fieldsOf w).opd, encode_eq_of_fieldsOfInstr (fields_of_operand_mask h), rfl⟩
  · obtain ⟨hfields, -, -⟩ := fields_of_matchesWord (csrMask := 0#8) (opdMask := 0#32) rfl h
    exact ⟨.wrcsr (fieldsOf w).csr (fieldsOf w).opd, encode_eq_of_fieldsOfInstr hfields, rfl⟩

theorem row_eq_of_mnemonic : ∀ r₁ ∈ opcodeTable, ∀ r₂ ∈ opcodeTable, r₁.mnemonic = r₂.mnemonic → r₁ = r₂ := by
  decide

/-- Settles O4: a word determines its command, the command the mnemonic, and the mnemonic the row. -/
theorem opcodeMapRowsSpellTheCommandsWithoutOverlap : Obligations.OpcodeMapRowsSpellTheCommandsWithoutOverlap := by
  refine ⟨fun w => ⟨fun h => ?_, ?_⟩, fun w r₁ hr₁ r₂ hr₂ h₁ h₂ => ?_, fun w i h => ?_⟩
  · obtain ⟨i, rfl⟩ := (legal_iff_encode w).mp h
    obtain ⟨r, hr, -, hmatch⟩ := encode_matches_row i
    exact ⟨r, hr, hmatch⟩
  · rintro ⟨r, hr, hmatch⟩
    obtain ⟨i, rfl, -⟩ := encode_of_matchesWord hr hmatch
    exact legal_encode i
  · obtain ⟨i, rfl, hi⟩ := encode_of_matchesWord hr₁ h₁
    obtain ⟨j, hji, hj⟩ := encode_of_matchesWord hr₂ h₂
    obtain rfl := encode_injective hji
    exact row_eq_of_mnemonic r₁ hr₁ r₂ hr₂ (hi.symm.trans hj)
  · obtain rfl := encode_of_decode h
    exact encode_matches_row i

/-! ### Reserved encodings and unwritable CSRs (R85, R190) -/

theorem not_legal_of_fields {w : CmdWord} (h : ∀ i, fieldsOfInstr i ≠ fieldsOf w) : legal w = false := by
  by_contra hlegal
  obtain ⟨i, hi⟩ := fieldsOfInstr_of_legal (Bool.eq_true_of_not_eq_false hlegal)
  exact h i hi

/-- The OPC values R85 reserves. -/
def IsReservedOpc (o : Nat) : Prop :=
  (0x05 ≤ o ∧ o ≤ 0x0F) ∨ (0x13 ≤ o ∧ o ≤ 0x1F) ∨ (0x22 ≤ o ∧ o ≤ 0x2F) ∨ 0x31 ≤ o

theorem opcode_code_not_reserved (op : Opcode) : ¬ IsReservedOpc op.code.toNat := by
  unfold IsReservedOpc
  cases op <;> decide

theorem not_legal_of_reserved_opc {w : CmdWord} (h : IsReservedOpc (fieldsOf w).opc.toNat) : legal w = false :=
  not_legal_of_fields fun i hi =>
    opcode_code_not_reserved (opcodeOf i) (by rwa [← hi, fieldsOfInstr_opc] at h)

theorem not_legal_of_rsv {w : CmdWord} (h : (fieldsOf w).rsv ≠ 0#16) : legal w = false :=
  not_legal_of_fields fun i hi => h (hi ▸ fieldsOfInstr_rsv i)

theorem not_legal_of_csr {w : CmdWord} (hopc : (fieldsOf w).opc ≠ 0x30#8) (hcsr : (fieldsOf w).csr ≠ 0#8) :
    legal w = false :=
  not_legal_of_fields fun _ hi => hcsr (hi ▸ fieldsOfInstr_csr (hi ▸ hopc))

@[simp] theorem execute_encode (i : Instr) (s : State) : execute (encode i) s = exec i s := by
  simp only [execute, decode_encode]

theorem csr_ofAddress_ne {a : CsrAddr} {c : CsrName} (h : a ≠ c.address) : CsrName.ofAddress a ≠ some c :=
  fun ha => h (csr_address_of_ofAddress ha).symm

/-- WRCSR to an address that is not writable (R190). -/
theorem exec_wrcsr_of_not_writable {a : CsrAddr} (hconfig : a ≠ 0x01#8) (hen : a ≠ 0x0A#8) (hpend : a ≠ 0x0B#8)
    (v : Word32) (s : State) :
    exec (.wrcsr a v) s = .next (raiseError .illegalCsr (encode (.wrcsr a v)) s) :=
  congrArg Host.Outcome.next (writeCsr_of_not_writable (csr_ofAddress_ne (c := .config) hconfig)
    (csr_ofAddress_ne (c := .irqEn) hen) (csr_ofAddress_ne (c := .irqPend) hpend) v _ s)

/-- Settles O6: no command has such fields, so the word is not legal; a WRCSR is legal, and its write raises. -/
theorem reservedEncodingsRaiseIllegalCmdAndUnwritableCsrsDoNot :
    Obligations.ReservedEncodingsRaiseIllegalCmdAndUnwritableCsrsDoNot := by
  refine ⟨fun w s h => execute_of_not_legal (not_legal_of_reserved_opc h) s,
    fun w s h => execute_of_not_legal (not_legal_of_rsv h) s,
    fun w s hopc hcsr => execute_of_not_legal (not_legal_of_csr hopc hcsr) s, fun a v s hconfig hen hpend => ?_⟩
  rw [execute_encode, exec_wrcsr_of_not_writable hconfig hen hpend]

/-! ### Lines of the assembler (R86, R87) -/

theorem append_toNat {n m : Nat} (x : BitVec n) (y : BitVec m) : (x ++ y).toNat = x.toNat * 2 ^ m + y.toNat := by
  rw [BitVec.toNat_append, ← Nat.shiftLeft_add_eq_or_of_lt y.isLt, Nat.shiftLeft_eq]

/-- The word of fields with RSV = 0, as the sum of its fields at their places (R80). -/
theorem wordOf_eq_ofNat (opc csr : BitVec 8) (opd : BitVec 32) :
    wordOf ⟨opc, csr, 0#16, opd⟩ = BitVec.ofNat 64 (opc.toNat * 2 ^ 56 + csr.toNat * 2 ^ 48 + opd.toNat) := by
  have hsum : (wordOf ⟨opc, csr, 0#16, opd⟩).toNat = opc.toNat * 2 ^ 56 + csr.toNat * 2 ^ 48 + opd.toNat := by
    change (opc ++ csr ++ 0#16 ++ opd).toNat = _
    rw [append_toNat, append_toNat, append_toNat, BitVec.toNat_zero]
    omega
  rw [← hsum, BitVec.ofNat_toNat, BitVec.setWidth_eq]

theorem toNat_ofNat_of_lt {n v : Nat} (hv : v < 2 ^ n) : (BitVec.ofNat n v).toNat = v := by
  rw [BitVec.toNat_ofNat, Nat.mod_eq_of_lt hv]

/-- An operand that fits OPD is added to the word. -/
theorem wordOf_ofNat_opd {v : Nat} (hv : v < 2 ^ 32) (opc csr : BitVec 8) :
    wordOf ⟨opc, csr, 0#16, BitVec.ofNat 32 v⟩ = wordOf ⟨opc, csr, 0#16, 0#32⟩ + BitVec.ofNat 64 v := by
  rw [wordOf_eq_ofNat, wordOf_eq_ofNat, ← BitVec.ofNat_add, toNat_ofNat_of_lt hv, BitVec.toNat_zero, Nat.add_zero]

/-- An address that fits CSR is added to the word at bit 48. -/
theorem wordOf_ofNat_csr {a : Nat} (ha : a < 2 ^ 8) (opc : BitVec 8) :
    wordOf ⟨opc, BitVec.ofNat 8 a, 0#16, 0#32⟩ = wordOf ⟨opc, 0#8, 0#16, 0#32⟩ + BitVec.ofNat 64 (a * 2 ^ 48) := by
  rw [wordOf_eq_ofNat, wordOf_eq_ofNat, ← BitVec.ofNat_add, toNat_ofNat_of_lt ha, BitVec.toNat_zero, BitVec.toNat_zero,
    Nat.zero_mul, Nat.add_zero, Nat.add_zero]

theorem setWidth_ofNat_byte {b : Nat} (hb : b < 2 ^ 8) : (BitVec.ofNat 8 b).setWidth 32 = BitVec.ofNat 32 b := by
  rw [← BitVec.ofNat_toNat, toNat_ofNat_of_lt hb]

theorem encode_pushByte_ofNat {b : Nat} (hb : b ≤ 255) :
    encode (.pushByte (BitVec.ofNat 8 b)) = 0x1000000000000000#64 + BitVec.ofNat 64 b := by
  have hopd : b < 2 ^ 32 := hb.trans_lt (by decide)
  rw [encode, fieldsOfInstr, setWidth_ofNat_byte (Nat.lt_succ_of_le hb), wordOf_ofNat_opd hopd]
  rfl

theorem encode_wrcsr_ofNat {a v : Nat} (ha : a ≤ 255) (hv : v < 2 ^ 32) :
    encode (.wrcsr (BitVec.ofNat 8 a) (BitVec.ofNat 32 v)) =
      0x3000000000000000#64 + BitVec.ofNat 64 (a * 2 ^ 48 + v) := by
  rw [encode, fieldsOfInstr, wordOf_ofNat_opd hv, wordOf_ofNat_csr (Nat.lt_succ_of_le ha), BitVec.add_assoc,
    ← BitVec.ofNat_add]
  rfl

/-- A line is refused exactly when its operands do not fit; otherwise its words are those of its commands. -/
theorem assemble_eq_ite {l : AsmLine} {fits : Prop} [Decidable fits] {ws : List CmdWord}
    (hfits : l.wellFormed = true ↔ fits) (hws : fits → l.expand.map encode = ws) :
    l.assemble = if fits then some ws else none := by
  by_cases h : fits
  · rw [AsmLine.assemble, if_pos (hfits.mpr h), if_pos h, hws h]
  · rw [AsmLine.assemble, if_neg (mt hfits.mp h), if_neg h]

/-- A line of one command. -/
theorem assemble_command {l : AsmLine} {i : Instr} {fits : Prop} [Decidable fits] {w : CmdWord}
    (hexpand : l.expand = [i]) (hfits : l.wellFormed = true ↔ fits) (hw : fits → encode i = w) :
    l.assemble = if fits then some [w] else none :=
  assemble_eq_ite hfits fun h => by rw [hexpand, List.map_singleton, hw h]

/-- A line that opens a job, sends each operand in a command of one kind, and ends the job (R87). -/
theorem assemble_job {l : AsmLine} {start : Instr} {command : Nat → Instr} {word : Nat → CmdWord} {fits : Nat → Prop}
    {xs : List Nat} [Decidable (∀ x ∈ xs, fits x)]
    (hexpand : l.expand = [start] ++ xs.map command ++ [.flush]) (hfits : l.wellFormed = true ↔ ∀ x ∈ xs, fits x)
    (hword : ∀ {x}, fits x → encode (command x) = word x) :
    l.assemble =
      if ∀ x ∈ xs, fits x then some ([encode start] ++ xs.map word ++ [0x0300000000000000#64]) else none :=
  assemble_eq_ite hfits fun h => by
    have hwords : (xs.map command).map encode = xs.map word := by
      rw [List.map_map]
      exact List.map_congr_left fun x hx => hword (h x hx)
    rw [hexpand, List.map_append, List.map_append, hwords]
    rfl

theorem legal_of_assemble {l : AsmLine} {ws : List CmdWord} (h : l.assemble = some ws) {w : CmdWord} (hw : w ∈ ws) :
    legal w = true := by
  unfold AsmLine.assemble at h
  split at h
  · obtain rfl := Option.some.inj h
    obtain ⟨i, -, rfl⟩ := List.mem_map.mp hw
    exact legal_encode i
  · cases h

theorem fits_byte {b : Nat} : decide (b < 2 ^ 8) = true ↔ b ≤ 255 := by
  rw [decide_eq_true_iff]
  omega

/-- Settles O7: operands that fit add to the word of the opcode, and each word made is that of a command. -/
theorem assemblerMakesTheWordOfEachLineOrRefusesIt : Obligations.AssemblerMakesTheWordOfEachLineOrRefusesIt := by
  refine ⟨rfl, rfl, rfl, rfl, rfl, fun b => assemble_command rfl fits_byte encode_pushByte_ofNat,
    fun v => assemble_command rfl decide_eq_true_iff fun h => wordOf_ofNat_opd h 0x11#8 0#8,
    fun v => assemble_command rfl decide_eq_true_iff fun h => wordOf_ofNat_opd h 0x12#8 0#8,
    fun v => assemble_command rfl decide_eq_true_iff fun h => wordOf_ofNat_opd h 0x20#8 0#8,
    fun v => assemble_command rfl decide_eq_true_iff fun h => wordOf_ofNat_opd h 0x21#8 0#8,
    fun a v => assemble_command rfl ?_ fun h => encode_wrcsr_ofNat h.1 h.2,
    fun c v => ?_, fun l ws h w hw => legal_of_assemble h hw⟩
  · rw [AsmLine.wellFormed, CsrRef.wellFormed, Bool.and_eq_true, fits_byte, decide_eq_true_iff]
  · cases c <;> rfl

theorem all_fits_byte {bs : List Nat} : bs.all (fun b => decide (b < 2 ^ 8)) = true ↔ ∀ b ∈ bs, b ≤ 255 := by
  simp only [List.all_eq_true, fits_byte]

theorem all_fits_word {vs : List Nat} : vs.all (fun v => decide (v < 2 ^ 32)) = true ↔ ∀ v ∈ vs, v < 2 ^ 32 := by
  simp only [List.all_eq_true, decide_eq_true_iff]

/-- Settles O57: a job line is the words of its commands, in order. -/
theorem pseudoInstructionsMakeTheWordsOfTheirExpansion :
    Obligations.PseudoInstructionsMakeTheWordsOfTheirExpansion := by
  refine ⟨fun p => ?_, fun p => ?_,
    fun m => assemble_command rfl decide_eq_true_iff fun h => wordOf_ofNat_opd h 0x30#8 0x0B#8,
    fun m => assemble_command rfl decide_eq_true_iff fun h => wordOf_ofNat_opd h 0x30#8 0x0A#8,
    fun bs => assemble_job (l := .pack bs) rfl all_fits_byte encode_pushByte_ofNat,
    fun ss => assemble_job (l := .unpack ss) rfl all_fits_word fun h => wordOf_ofNat_opd h 0x11#8 0#8,
    fun xs => assemble_job (l := .unpackI xs) rfl all_fits_word fun h => wordOf_ofNat_opd h 0x12#8 0#8⟩
  · cases p <;> rfl
  · cases p <;> rfl

/-! ### The step on an illegal word (R84, 20_memory.md R51) -/

theorem acceptedWord_of_offered {s : State} {w : CmdWord} {ws : List CmdWord} (hrst : s.currentEdge.rstN = true)
    (hvalid : s.currentEdge.cmdValid = true) (hoffered : s.offered = w :: ws) (hroom : s.hasRoom = true) :
    s.acceptedWord = some w := by
  simp [acceptedWord_of_room hrst hroom, State.cmdOnPort, hvalid, hoffered]

/-- Settles O47: the word is accepted, and the error entry leaves the host's side of the ports alone. -/
theorem stepOnAnIllegalWordEntersIllegalCmd : Obligations.StepOnAnIllegalWordEntersIllegalCmd := by
  intro s w ws hrst hvalid hoffered hroom hillegal
  have hacc := acceptedWord_of_offered hrst hvalid hoffered hroom
  have hex := execute_of_not_legal hillegal s
  obtain ⟨hpos, hoffered', hedges⟩ := execute_keepsHostSide hex
  rw [step_of_accepted hrst hacc hex, State.afterAccept, dropPopped_of_rstN hrst, hpos, hoffered', hoffered, hedges,
    List.tail_cons]

end Sys2Proof.Proofs
end

section
/-! PROOFS. The control family (spec 40_control.md): every command answers a next state and raises exactly the error of
the table of R204; NOP and the job commands in each mode. -/

namespace Sys2Proof.Proofs

open Sys2Proof Sys2Proof.Machine

/-! ### Modes with and without an open job (spec 10_state.md R22) -/

theorem jobOpen_iff {m : Mode} : m.jobOpen = true ↔ m = .pack ∨ m = .unpack := by
  cases m <;> decide

theorem not_jobOpen_iff {m : Mode} : m.jobOpen = false ↔ m = .idle ∨ m = .error := by
  cases m <;> decide

/-! ### Every command answers a next state (R100) -/

theorem exec_total (i : Instr) (s : State) : ∃ t, exec i s = .next t := by
  cases i with
  | nop | lutFwd | lutRev | wrcsr => exact ⟨_, rfl⟩
  | startPack | startUnpack | flush | abort | pushByte | pushSym | pushIdx =>
    simp only [exec, execStartPack, execStartUnpack, execFlush, execAbort, execPushByte, execPushSym, execPushIdx]
    split <;> exact ⟨_, rfl⟩

theorem completes_irqEn {s t : State} {i : Instr} (hdone : Completes s i t) (hi : ∀ a v, i ≠ .wrcsr a v) :
    t.irqEn = s.irqEn := by
  cases hdone with
  | writeIrqEn => exact absurd rfl (hi _ _)
  | flushPack =>
    obtain ⟨is, -, hfinal⟩ := packFinal_eq s
    simp [hfinal]
  | _ => simp [packByte_eq, unpackIndex_eq]

/-- Settles O44: a next state always exists, and error entry and the completed commands leave the rest alone. -/
theorem everyCommandCompletesAndOnlyAppendsToTheFifo : Obligations.EveryCommandCompletesAndOnlyAppendsToTheFifo := by
  intro i s
  obtain ⟨t, hexec⟩ := exec_total i s
  have hex : execute (encode i) s = .next t := by rwa [execute_encode]
  obtain ⟨hpos, hoffered, hedges⟩ := execute_keepsHostSide hex
  refine ⟨t, hexec, hpos, hoffered, hedges, fun hi => ?_, execute_appends hex⟩
  obtain ⟨e, -, -, rfl⟩ | hdone := exec_cases hexec
  · rfl
  · exact completes_irqEn hdone hi

/-! ### A command raises exactly the error of its table (R204) -/

/-- Only the two table queries have an answer. -/
theorem eq_lut_of_lutAnswer {p : Profile} {i : Instr} {x : Item} (h : lutAnswer p i = some x) :
    (∃ y, i = .lutFwd y) ∨ ∃ y, i = .lutRev y := by
  cases i with
  | lutFwd y => exact .inl ⟨y, rfl⟩
  | lutRev y => exact .inr ⟨y, rfl⟩
  | _ => cases h

theorem toNat_ofNat_of_lt_symbolCount {p : Profile} {x : Nat} (hx : x < symbolCount p) :
    (BitVec.ofNat 32 x).toNat = x :=
  toNat_ofNat_of_lt ((hx.trans_le (symbolCount_le p)).trans (by decide))

theorem commandError_unpackCommand {s : State} (hmode : s.mode = .unpack) (bySymbol : Bool) {x : Nat}
    (hx : x < symbolCount s.profile) : commandError s (unpackCommand s.profile bySymbol x) = none := by
  cases bySymbol with
  | true =>
    have hsym : inTable s.profile (symtab s.profile x) := ⟨x, hx, rfl⟩
    simp [unpackCommand, commandError, hmode, hsym]
  | false => simp [unpackCommand, commandError, hmode, toNat_ofNat_of_lt_symbolCount hx, hx]

/-- A command that completes is discarded or has no error in the table. -/
theorem completes_commandError {s t : State} {i : Instr} (hdone : Completes s i t) :
    (s.mode = .error ∧ isDiscardedInError i = true) ∨ commandError s i = none := by
  cases hdone with
  | discard hmode hcmd => exact .inl ⟨hmode, hcmd⟩
  | startPack hjob | startUnpack hjob | writeConfig hjob => exact .inr (by simp [commandError, hjob])
  | flushPack hmode | flushUnpack hmode | pushByte hmode => exact .inr (by simp [commandError, hmode])
  | pushIndex hmode hx => exact .inr (commandError_unpackCommand hmode _ hx)
  | lut hanswer => obtain ⟨y, rfl⟩ | ⟨y, rfl⟩ := eq_lut_of_lutAnswer hanswer <;> exact .inr rfl
  | nop | abortJob | abortNoJob | writeIrqEn | writeIrqPend => exact .inr rfl

theorem exec_of_commandError {s : State} {i : Instr} {e : ErrorKind} (herror : commandError s i = some e)
    (hkept : ¬ (s.mode = .error ∧ isDiscardedInError i = true)) :
    exec i s = .next (raiseError e (encode i) s) := by
  obtain ⟨t, hexec⟩ := exec_total i s
  obtain ⟨e', he', -, rfl⟩ | hdone := exec_cases hexec
  · obtain rfl := Option.some.inj (he'.symm.trans herror)
    exact hexec
  · obtain hdiscard | hnone := completes_commandError hdone
    · exact absurd hdiscard hkept
    · simp [hnone] at herror

theorem completes_of_commandError_none {s t : State} {i : Instr} (hnone : commandError s i = none)
    (hexec : exec i s = .next t) : Completes s i t := by
  obtain ⟨e, he, -⟩ | hdone := exec_cases hexec
  · simp [hnone] at he
  · exact hdone

/-! ### NOP (R106) -/

/-- Settles O8. -/
theorem nopChangesNothingAndWaitsForRoomLikeAnyCommand :
    Obligations.NopChangesNothingAndWaitsForRoomLikeAnyCommand := by
  refine ⟨rfl, fun s => rfl, fun s t ws hoffered hrst hroom hstep => ?_⟩
  have hnone := acceptedWord_of_no_room hroom
  obtain ⟨hreset, -⟩ | ⟨-, ⟨w, u, hacc, -⟩ | ⟨-, -, rfl⟩⟩ := step_cases hstep
  · simp [hrst] at hreset
  · simp [hnone] at hacc
  · exact hoffered

/-! ### START_PACK and START_UNPACK (R102, R103) -/

theorem exec_start_in_job {s : State} {i : Instr} (hi : isStart i = true) (hjob : s.mode.jobOpen = true) :
    exec i s = .next (raiseError .sequenceError (encode i) s) := by
  cases i with
  | startPack | startUnpack =>
    exact exec_of_commandError (if_pos hjob) (by simp [isDiscardedInError, isDataCommand])
  | _ => cases hi

/-- Settles O9. -/
theorem startPackOpensPackJobUnlessOneIsOpen : Obligations.StartPackOpensPackJobUnlessOneIsOpen :=
  ⟨rfl, fun _ hmode => exec_startPack (not_jobOpen_iff.mpr hmode),
    fun _ hmode => exec_start_in_job rfl (jobOpen_iff.mpr hmode)⟩

/-- Settles O10. -/
theorem startUnpackOpensUnpackJobUnlessOneIsOpen : Obligations.StartUnpackOpensUnpackJobUnlessOneIsOpen :=
  ⟨rfl, fun _ hmode => exec_startUnpack (not_jobOpen_iff.mpr hmode),
    fun _ hmode => exec_start_in_job rfl (jobOpen_iff.mpr hmode)⟩

/-! ### ABORT (R105) -/

theorem exec_abort_in_job {s : State} (hjob : s.mode.jobOpen = true) :
    exec .abort s = .next (s.push .aborted s.outCount).toIdle := by
  show execAbort s = _
  obtain hmode | hmode := jobOpen_iff.mp hjob <;> simp only [execAbort, hmode]

theorem exec_abort_without_job {s : State} (hjob : s.mode.jobOpen = false) : exec .abort s = .next s.toIdle := by
  show execAbort s = _
  obtain hmode | hmode := not_jobOpen_iff.mp hjob <;> simp only [execAbort, hmode]

/-- In IDLE the cursor is clear by R28, so there is nothing left to clear. -/
theorem toIdle_of_idle {s : State} (hmode : s.mode = .idle) (h : s.cursorOk) : s.toIdle = s := by
  obtain ⟨hacc, hheld⟩ := (cursorOk_of_idle hmode).mp h
  rw [State.toIdle, ← hmode, ← hacc, ← hheld]

/-- Settles O12. -/
theorem abortReturnsToIdleAndReportsAnOpenJob : Obligations.AbortReturnsToIdleAndReportsAnOpenJob := by
  refine ⟨rfl, fun s hmode => exec_abort_in_job (jobOpen_iff.mpr hmode),
    fun s hmode => exec_abort_without_job (not_jobOpen_iff.mpr hmode), fun s hmode h => ?_⟩
  rw [exec_abort_without_job (not_jobOpen_iff.mpr (.inl hmode)), toIdle_of_idle hmode h]

/-! ### FLUSH (R104, 42_pack.md R145, 43_unpack.md R167) -/

theorem exec_flush_pack {s : State} (hmode : s.mode = .pack) : exec .flush s = .next (finishJob (packFinal s)) := by
  show execFlush s = _
  simp only [execFlush, hmode]

theorem exec_flush_unpack {s : State} (hmode : s.mode = .unpack) : exec .flush s = .next (finishJob s) := by
  show execFlush s = _
  simp only [execFlush, hmode, unpackFinal]

theorem exec_flush_error {s : State} (hmode : s.mode = .error) : exec .flush s = .next s := by
  show execFlush s = _
  simp only [execFlush, hmode]

theorem packFinal_of_held_zero {s : State} (hheld : s.held = 0#5) : packFinal s = s :=
  if_pos hheld

/-- The held bits, moved to the top of a chunk, are an index of the profile. -/
theorem final_chunk_lt {s : State} (h : s.cursorBelow (chunkBits s.profile)) :
    s.acc.toNat * 2 ^ (chunkBits s.profile - s.held.toNat) < symbolCount s.profile := by
  obtain ⟨hheld, hacc⟩ := h
  calc s.acc.toNat * 2 ^ (chunkBits s.profile - s.held.toNat)
    _ < 2 ^ s.held.toNat * 2 ^ (chunkBits s.profile - s.held.toNat) := Nat.mul_lt_mul_of_pos_right hacc (by positivity)
    _ = symbolCount s.profile := by rw [symbolCount_eq_pow, pow_mul_pow_sub 2 hheld.le]

/-- Within the cursor invariant the mask of PackFinal cuts nothing off the padded chunk. -/
theorem packFinal_of_held {s : State} (h : s.cursorBelow (chunkBits s.profile)) (hheld : s.held ≠ 0#5) :
    packFinal s = s.emitIndex (s.acc.toNat * 2 ^ (chunkBits s.profile - s.held.toNat)) := by
  have hlt := final_chunk_lt h
  rw [symbolCount_eq_pow] at hlt
  rw [packFinal, if_neg hheld, Nat.shiftLeft_eq, and_mask, Nat.mod_eq_of_lt hlt]

/-- Settles O11. -/
theorem flushEndsTheOpenJobAndPadsTheFinalChunk : Obligations.FlushEndsTheOpenJobAndPadsTheFinalChunk := by
  refine ⟨rfl, fun s hmode hheld => ?_, fun s hmode h hheld => ⟨final_chunk_lt h, ?_⟩,
    fun s => exec_flush_unpack, fun s hmode => ?_, fun s => exec_flush_error⟩
  · rw [exec_flush_pack hmode, packFinal_of_held_zero hheld]
    rfl
  · rw [exec_flush_pack hmode, packFinal_of_held h hheld, emitIndex_eq]
    simp only [finishJob, State.push, State.toIdle, List.append_assoc, List.singleton_append]
    rfl
  · exact exec_of_commandError (if_pos hmode) (by simp [hmode])

end Sys2Proof.Proofs
end

section
/-! PROOFS. The control family (spec 40_control.md), continued: the mode table, the push bounds, and the terminator of
a job. -/

namespace Sys2Proof.Proofs

open Sys2Proof Sys2Proof.Machine

/-! ### The mode table (R107) -/

theorem modeAfter_of_commandError {s : State} {i : Instr} {e : ErrorKind} (h : commandError s i = some e) :
    modeAfter s i = .error := by
  cases i with
  | nop | abort | lutFwd | lutRev => cases h
  | startPack | startUnpack | flush | pushByte => simp_all [commandError, modeAfter]
  | pushSym sym =>
    refine if_neg ?_
    rintro ⟨hmode, hsym⟩
    simp [commandError, hmode, hsym] at h
  | pushIdx x =>
    refine if_neg ?_
    rintro ⟨hmode, hx⟩
    simp [commandError, hmode, hx] at h
  | wrcsr a v =>
    simp only [commandError, modeAfter] at h ⊢
    split_ifs at h ⊢ <;> rfl

theorem modeAfter_of_discarded {s : State} {i : Instr} (hmode : s.mode = .error) (hcmd : isDiscardedInError i = true) :
    modeAfter s i = .error := by
  cases i with
  | flush | pushByte | pushSym | pushIdx => simp [modeAfter, hmode]
  | _ => cases hcmd

theorem modeAfter_unpackCommand {s : State} (hmode : s.mode = .unpack) (bySymbol : Bool) {x : Nat}
    (hx : x < symbolCount s.profile) : modeAfter s (unpackCommand s.profile bySymbol x) = .unpack := by
  cases bySymbol with
  | true => exact if_pos ⟨hmode, x, hx, rfl⟩
  | false => exact if_pos ⟨hmode, by rwa [toNat_ofNat_of_lt_symbolCount hx]⟩

theorem completes_mode {s t : State} {i : Instr} (hdone : Completes s i t) : t.mode = modeAfter s i := by
  cases hdone with
  | discard hmode hcmd => rw [modeAfter_of_discarded hmode hcmd, hmode]
  | startPack hjob | startUnpack hjob | writeConfig hjob => simp [modeAfter, hjob]
  | flushPack hmode | flushUnpack hmode => simp [modeAfter, hmode]
  | pushByte hmode => simp [packByte_eq, modeAfter, hmode]
  | pushIndex hmode hx => simp [unpackIndex_eq, modeAfter_unpackCommand hmode _ hx, hmode]
  | lut hanswer => obtain ⟨y, rfl⟩ | ⟨y, rfl⟩ := eq_lut_of_lutAnswer hanswer <;> rfl
  | nop | abortJob | abortNoJob | writeIrqEn | writeIrqPend => rfl

/-- Settles O13: an error of the command's table and an illegal word enter ERROR, a completed command its table mode. -/
theorem modeAfterEveryCommandIsThatOfTheModeTable : Obligations.ModeAfterEveryCommandIsThatOfTheModeTable := by
  intro w s t hex
  obtain ⟨i, hdecode, hexec⟩ | ⟨r, hdecode, rfl⟩ := execute_cases hex
  · refine ⟨fun j hj => ?_, fun r hr => by simp [hdecode] at hr⟩
    obtain rfl := Except.ok.inj (hdecode.symm.trans hj)
    obtain ⟨e, herror, -, rfl⟩ | hdone := exec_cases hexec
    · exact (modeAfter_of_commandError herror).symm
    · exact completes_mode hdone
  · exact ⟨fun i hi => by simp [hdecode] at hi, fun _ _ => rfl⟩

/-! ### The push bounds (R101) -/

/-- A command other than the data commands, FLUSH, ABORT and the queries pushes nothing when it completes. -/
theorem completes_fifo_of_silent {s t : State} {i : Instr} (hdone : Completes s i t)
    (hi : i = .nop ∨ isStart i = true ∨ ∃ a v, i = .wrcsr a v) : t.fifo = s.fifo := by
  cases hdone with
  | flushPack | flushUnpack | abortJob | pushByte => simp [isStart] at hi
  | @pushIndex bySymbol => cases bySymbol <;> simp [unpackCommand, isStart] at hi
  | lut hanswer => obtain ⟨y, rfl⟩ | ⟨y, rfl⟩ := eq_lut_of_lutAnswer hanswer <;> simp [isStart] at hi
  | nop | discard | startPack | startUnpack | abortNoJob | writeConfig | writeIrqEn | writeIrqPend => rfl

theorem exec_abort_fifo_length_le {s t : State} (hexec : exec .abort s = .next t) :
    t.fifo.length ≤ s.fifo.length + 1 := by
  cases hjob : s.mode.jobOpen with
  | true =>
    obtain rfl := Host.Outcome.next.inj ((exec_abort_in_job hjob).symm.trans hexec)
    simp
  | false =>
    obtain rfl := Host.Outcome.next.inj ((exec_abort_without_job hjob).symm.trans hexec)
    simp

theorem execute_lut_fifo_length {w : CmdWord} {s t : State} {x : Word32}
    (hw : w = encode (.lutFwd x) ∨ w = encode (.lutRev x)) (hex : execute w s = .next t) :
    t.fifo.length = s.fifo.length + 1 := by
  obtain rfl | rfl := hw <;> rw [execute_encode] at hex <;> obtain rfl := Host.Outcome.next.inj hex
  · split <;> simp
  · simp

/-- Settles O14: each bound is one on the growth of the FIFO. -/
theorem everyCommandPushesAtMostItsBoundOfItems : Obligations.EveryCommandPushesAtMostItsBoundOfItems := by
  intro w s t h hex
  obtain ⟨new, hfifo⟩ := execute_appends hex
  have hlength : t.fifo.length = s.fifo.length + new.length := by rw [hfifo, List.length_append]
  refine ⟨new, hfifo, ?_, ?_, ?_, ?_, ?_⟩
  · have := execute_fifo_length_le h hex
    omega
  · rintro e rfl
    simpa using hlength.symm
  · rintro rfl
    rw [execute_encode] at hex
    have := exec_abort_fifo_length_le hex
    omega
  · intro x hw
    have := execute_lut_fifo_length hw hex
    omega
  · intro i hdecode hi hnone
    obtain rfl := encode_of_decode hdecode
    rw [execute_encode] at hex
    have hsame := completes_fifo_of_silent (completes_of_commandError_none hnone hex) hi
    exact List.append_cancel_left (hfifo.symm.trans (hsame.trans (List.append_nil _).symm))

/-! ### The terminator of a job (R101, 60_exceptions.md R206) -/

@[simp] theorem packItem_isTerminator (p : Profile) (emitIdx : Bool) (i : Nat) :
    (packItem p emitIdx i).tag.isTerminator = false := by
  cases emitIdx <;> rfl

/-- The last item `last` closes the job: END of FLUSH, ABORTED of ABORT, or ERR of an error. -/
def Terminates (w : CmdWord) (s t : State) (last : Item) : Prop :=
  (w = encode .flush ∧ t.mode = .idle ∧ last = ⟨.jobEnd, t.outCount⟩) ∨
    (w = encode .abort ∧ t.mode = .idle ∧ last = ⟨.aborted, t.outCount⟩) ∨
    (∃ e, t = raiseError e w s ∧ last = ⟨.err, e.code.setWidth 32⟩)

/-- The items `new`, pushed from `s` to `t` by the word `w`, leave the mode as it is and hold no terminator, or leave
no job open and hold exactly one, as the last (R101). -/
def ClosesOnce (w : CmdWord) (s t : State) (new : List Item) : Prop :=
  (t.mode = s.mode ∧ ∀ x ∈ new, x.tag.isTerminator = false) ∨
    (t.mode.jobOpen = false ∧ ∃ before last, new = before ++ [last] ∧
      (∀ x ∈ before, x.tag.isTerminator = false) ∧ Terminates w s t last)

theorem completes_closesOnce {s t : State} {i : Instr} (hjob : s.mode.jobOpen = true) (hdone : Completes s i t) :
    ∃ new, t.fifo = s.fifo ++ new ∧ ClosesOnce (encode i) s t new := by
  cases hdone with
  | nop | writeIrqEn | writeIrqPend => exact ⟨[], by simp, .inl ⟨rfl, by simp⟩⟩
  | discard hmode => simp [hmode, Mode.jobOpen] at hjob
  | startPack hno | startUnpack hno | abortNoJob hno | writeConfig hno => simp [hno] at hjob
  | flushPack =>
    obtain ⟨is, -, hfinal⟩ := packFinal_eq s
    refine ⟨is.map (packItem s.profile s.emitIdx) ++ [⟨.jobEnd, (packFinal s).outCount⟩], ?_,
      .inr ⟨rfl, _, _, rfl, ?_, .inl ⟨rfl, rfl, rfl⟩⟩⟩
    · simp [hfinal]
    · simp
  | flushUnpack => exact ⟨_, rfl, .inr ⟨rfl, [], _, rfl, by simp, .inl ⟨rfl, rfl, rfl⟩⟩⟩
  | abortJob => exact ⟨_, rfl, .inr ⟨rfl, [], _, rfl, by simp, .inr (.inl ⟨rfl, rfl, rfl⟩)⟩⟩
  | pushByte =>
    exact ⟨_, congrArg State.fifo (packByte_eq _ s), .inl ⟨by simp [packByte_eq], by simp⟩⟩
  | pushIndex =>
    exact ⟨_, congrArg State.fifo (unpackIndex_eq _ s),
      .inl ⟨by simp [unpackIndex_eq], by simp [Tag.isTerminator]⟩⟩
  | lut hanswer =>
    refine ⟨_, rfl, .inl ⟨rfl, ?_⟩⟩
    obtain htag | htag := lutAnswer_tag hanswer <;> simp [htag, Tag.isTerminator]

/-- Settles O15. -/
theorem anOpenJobEndsWithExactlyOneTerminator : Obligations.AnOpenJobEndsWithExactlyOneTerminator := by
  intro w s t hjob hex
  obtain ⟨e, rfl⟩ | ⟨i, rfl, hdone⟩ := execute_effects hex
  · exact ⟨_, rfl, .inr ⟨rfl, [], _, rfl, by simp, .inr (.inr ⟨e, rfl, rfl⟩)⟩⟩
  · exact completes_closesOnce hjob hdone

end Sys2Proof.Proofs
end

section
/-! PROOFS. The symbol table family (spec 41_lut.md): the search under the canonical fill, and the answers of the two
table queries. -/

namespace Sys2Proof.Proofs

open Sys2Proof Sys2Proof.Machine

/-! ### The canonical fill (R123) -/

/-- The canonical fill holds a symbol at one index alone, its modular distance from BASE. -/
theorem canonicalFill_eq_iff {base sym : Word32} {i : Nat} (hi : i < 2 ^ 32) :
    canonicalFill base i = sym ↔ i = (sym - base).toNat := by
  calc base + BitVec.ofNat 32 i = sym
    _ ↔ BitVec.ofNat 32 i = sym - base := eq_sub_iff_add_eq'.symm
    _ ↔ i = (sym - base).toNat := by rw [← BitVec.toNat_inj, toNat_ofNat_of_lt hi]

theorem lt_two_pow_of_lt_symbolCount {p : Profile} {i : Nat} (hi : i < symbolCount p) : i < 2 ^ 32 :=
  (hi.trans_le (symbolCount_le p)).trans (by decide)

theorem canonicalFill_injective (base : Word32) (p : Profile) :
    ∀ i < symbolCount p, ∀ j < symbolCount p, canonicalFill base i = canonicalFill base j → i = j := by
  intro i hi j hj h
  have hdist := (canonicalFill_eq_iff (lt_two_pow_of_lt_symbolCount hi)).mp h
  have hself := (canonicalFill_eq_iff (base := base) (lt_two_pow_of_lt_symbolCount hj)).mp rfl
  exact hdist.trans hself.symm

/-- Settles O17: only the index at the modular distance can hold the symbol, so the profile decides hit or miss. -/
theorem reverseSearchOfCanonicalFillIsModularDistance :
    Obligations.ReverseSearchOfCanonicalFillIsModularDistance := by
  intro base sym p
  split
  case isTrue hlt =>
    exact (reverseSearch_eq_some_iff (canonicalFill_injective base p) sym _).mpr
      ⟨hlt, (canonicalFill_eq_iff (sym - base).isLt).mpr rfl⟩
  case isFalse hge =>
    refine (reverseSearch_eq_none_iff _ _ sym).mpr fun i hi hsym => hge ?_
    rwa [← (canonicalFill_eq_iff (lt_two_pow_of_lt_symbolCount hi)).mp hsym]

/-! ### The table queries (R124, R125) -/

/-- The operand is or-ed into the low half of the word (R80). -/
theorem wordOf_eq_or_opd (opc csr : BitVec 8) (rsv : BitVec 16) (opd : BitVec 32) :
    wordOf ⟨opc, csr, rsv, opd⟩ = wordOf ⟨opc, csr, rsv, 0#32⟩ ||| opd.setWidth 64 := by
  have hopd : opd.setWidth 64 = 0#32 ++ opd := BitVec.setWidth_eq_append (by decide)
  rw [hopd, wordOf, wordOf, BitVec.or_append, BitVec.or_zero, BitVec.zero_or]

/-- A query pushes its answer and changes nothing else, whatever the mode. -/
theorem exec_of_lutAnswer {s : State} {i : Instr} {x : Item} (h : lutAnswer s.profile i = some x) :
    exec i s = .next { s with fifo := s.fifo ++ [x] } := by
  obtain ⟨y, rfl⟩ | ⟨sym, rfl⟩ := eq_lut_of_lutAnswer h <;> obtain rfl := Option.some.inj h
  · simp only [exec, execLutFwd]
    split <;> rfl
  · rfl

theorem lutRevAnswer_symtab {p : Profile} {i : Nat} (hi : i < symbolCount p) :
    lutRevAnswer p (symtab p i) = ⟨.lut, BitVec.ofNat 32 i⟩ := by
  rw [lutRevAnswer, (revLookup_eq_some_iff p _ i).mpr ⟨hi, rfl⟩]

theorem lutRevAnswer_of_not_inTable {p : Profile} {sym : Word32} (h : ¬ inTable p sym) :
    lutRevAnswer p sym = ⟨.lutMiss, sym⟩ := by
  rw [lutRevAnswer, (revLookup_eq_none_iff p sym).mpr h]

/-- Settles O18. -/
theorem lutFwdAnswersTheSymbolOrAMissInEveryMode : Obligations.LutFwdAnswersTheSymbolOrAMissInEveryMode :=
  ⟨wordOf_eq_or_opd 0x20#8 0#8 0#16,
    fun _ _ hx => exec_of_lutAnswer (congrArg some (if_pos hx)),
    fun _ _ hx => exec_of_lutAnswer (congrArg some (if_neg hx.not_gt))⟩

/-- Settles O19. -/
theorem lutRevAnswersTheIndexOrAMissInEveryMode : Obligations.LutRevAnswersTheIndexOrAMissInEveryMode :=
  ⟨wordOf_eq_or_opd 0x21#8 0#8 0#16,
    fun _ _ hi => exec_of_lutAnswer (congrArg some (lutRevAnswer_symtab hi)),
    fun _ _ hsym => exec_of_lutAnswer (congrArg some (lutRevAnswer_of_not_inTable hsym))⟩

end Sys2Proof.Proofs
end

section
/-! PROOFS. The pack family (spec 42_pack.md): PUSH_BYTE in closed form, the cursor within a pack job, and what the
items of a pack job say of its configuration and of its bytes. -/

namespace Sys2Proof.Proofs

open Sys2Proof Sys2Proof.Machine

/-! ### PUSH_BYTE (R141) -/

theorem encode_pushByte (b : Byte) : encode (.pushByte b) = 0x1000000000000000#64 ||| b.setWidth 64 := by
  rw [encode, fieldsOfInstr, wordOf_eq_or_opd, BitVec.setWidth_setWidth (by decide)]
  rfl

theorem exec_pushByte_pack {s : State} (hmode : s.mode = .pack) (b : Byte) :
    exec (.pushByte b) s = .next (packByte b s) := by
  show execPushByte b s = _
  simp only [execPushByte, hmode]

theorem exec_pushByte_error {s : State} (hmode : s.mode = .error) (b : Byte) :
    exec (.pushByte b) s = .next s := by
  show execPushByte b s = _
  simp only [execPushByte, hmode]

/-- A word with the opcode of PUSH_BYTE is legal only if OPD[31:8] is 0 (30_encoding.md R82). -/
theorem not_legal_of_wide_byte {w : CmdWord} (hopc : (fieldsOf w).opc = 0x10#8)
    (hopd : (fieldsOf w).opd.extractLsb' 8 24 ≠ 0#24) : legal w = false :=
  not_legal_of_fields fun i hi => by
    rw [← hi] at hopc hopd
    cases i with
    | pushByte b => exact hopd (setWidth_byte_high b)
    | _ => exact absurd hopc (by simp [fieldsOfInstr])

/-- The upper bits of the operand are the word's bits 31 to 8 (30_encoding.md R80). -/
theorem fieldsOf_opd_high (w : CmdWord) : (fieldsOf w).opd.extractLsb' 8 24 = w.extractLsb' 8 24 := by
  rw [fieldsOf, BitVec.extractLsb'_extractLsb'_of_le (by decide)]

/-- Settles O20: the closed form is that of the regrouping loop on the held bits with the byte shifted in. -/
theorem pushByteEmitsTheTopChunksAndKeepsTheRest : Obligations.PushByteEmitsTheTopChunksAndKeepsTheRest := by
  refine ⟨encode_pushByte, fun b s hmode hcursor => ?_, fun b s hmode => ?_,
    fun b s hmode => exec_pushByte_error hmode b,
    fun w s hopc hopd => execute_of_not_legal (not_legal_of_wide_byte hopc (fieldsOf_opd_high w ▸ hopd)) s⟩
  · obtain ⟨-, hacc⟩ := hcursor
    rw [exec_pushByte_pack hmode, packByte_eq, drain_spec (chunkBits_pos _) le_rfl (shift_in_lt hacc b.isLt),
      shift_or_eq _ _ _ b.isLt]
    simp only [List.map_map, List.length_map, List.length_range]
    rfl
  · obtain ⟨hpack, herror⟩ : s.mode ≠ .pack ∧ s.mode ≠ .error := by obtain hm | hm := hmode <;> simp [hm]
    exact exec_of_commandError (if_pos hpack) fun h => herror h.1

/-! ### The cursor within a pack job (R142) -/

/-- Settles O21: the state after the bytes is that of the regrouping loop run on their whole stream. -/
theorem cursorAfterBytesHoldsTheUnemittedTailOfTheStream :
    Obligations.CursorAfterBytesHoldsTheUnemittedTailOfTheStream := by
  intro d s hjob
  have hcb := chunkBits_pos s.profile
  have hregroup := regroup_eq hcb (byteStream d)
  rw [length_byteStream] at hregroup
  obtain ⟨hacc, hheld⟩ := midJob_cursor hcb (chunkBits_le s.profile) s .pack (packItem s.profile s.emitIdx) d.length
    (byteStream d)
  rw [hregroup] at hacc hheld
  refine ⟨_, runInstrs_startPack_pushBytes d hjob, rfl, ?_, ?_, ?_⟩
  · rw [packing, hregroup, hheld]
  · rw [packing, hregroup, hacc, hheld]
  · rw [packing, hregroup, midJob, List.map_map]
    rfl

/-! ### The items of a pack job (R146, R147) -/

/-- The items a pack job of the bytes `d` pushes. -/
def packJobItems (p : Profile) (emitIdx : Bool) (d : List Byte) : List Item :=
  (packedIndices (chunkBits p) d).map (packItem p emitIdx) ++ [endItem (chunkCount (chunkBits p) d.length)]

theorem runInstrs_packJob_fifo (d : List Byte) {s : State} (hjob : s.mode.jobOpen = false) :
    ∃ t, runInstrs (packJob d) s = .next t ∧ t.fifo = s.fifo ++ packJobItems s.profile s.emitIdx d :=
  ⟨_, packJobRegroupsTheByteStreamMostSignificantBitFirst d s hjob, List.append_assoc _ _ _⟩

/-- Settles O23. -/
theorem packJobItemsDependOnlyOnConfigAndBytes : Obligations.PackJobItemsDependOnlyOnConfigAndBytes := by
  intro d s₁ s₂ hjob₁ hjob₂ hprofile hemit
  obtain ⟨t₁, hrun₁, hfifo₁⟩ := runInstrs_packJob_fifo d hjob₁
  obtain ⟨t₂, hrun₂, hfifo₂⟩ := runInstrs_packJob_fifo d hjob₂
  rw [← hprofile, ← hemit] at hfifo₂
  exact ⟨_, t₁, t₂, hrun₁, hrun₂, hfifo₁, hfifo₂⟩

end Sys2Proof.Proofs
end

section
/-! PROOFS. The pack family (spec 42_pack.md), continued: the items of a pack job determine its bytes, but for Large
with a pad of 8 bits. -/

namespace Sys2Proof.Proofs

open Sys2Proof Sys2Proof.Machine

/-! ### What a stream and its groups determine (20_memory.md R57) -/

theorem eq_of_numberOf_eq {as bs : List Bool} (hlength : as.length = bs.length) (h : numberOf as = numberOf bs) :
    as = bs := by
  induction as generalizing bs with
  | nil => exact (List.length_eq_zero_iff.mp hlength.symm).symm
  | cons a as ih =>
    cases bs with
    | nil => simp at hlength
    | cons b bs =>
      have htail : as.length = bs.length := Nat.succ.inj hlength
      have has := numberOf_lt as
      have hbs := numberOf_lt bs
      rw [numberOf_cons, numberOf_cons, htail] at h
      rw [htail] at has
      have hhead : a = b := by
        cases a <;> cases b <;> simp at h ⊢ <;> omega
      obtain rfl := hhead
      rw [ih htail (Nat.add_left_cancel h)]

/-- A group determines its bits, those past the end of the stream read as 0. -/
theorem getD_eq_of_groupAt_eq {w j k : Nat} {xs ys : List Bool} (h : groupAt w xs j = groupAt w ys j) (hk : k < w) :
    xs.getD (j * w + k) false = ys.getD (j * w + k) false :=
  List.map_inj_left.mp (eq_of_numberOf_eq (by simp) h) k (List.mem_range.mpr hk)

/-- Two streams of one length whose groups agree are equal, if the groups reach the end. -/
theorem eq_of_groupAt_eq {w n : Nat} {xs ys : List Bool} (hlength : xs.length = ys.length) (hend : xs.length ≤ n * w)
    (h : ∀ j < n, groupAt w xs j = groupAt w ys j) : xs = ys := by
  refine List.ext_getElem hlength fun k hxs hys => ?_
  have hw : 0 < w := Nat.pos_of_mul_pos_left (Nat.zero_lt_of_lt (hxs.trans_le hend))
  have hgroup : k / w < n := (Nat.div_lt_iff_lt_mul hw).mpr (hxs.trans_le hend)
  have hbit := getD_eq_of_groupAt_eq (h _ hgroup) (Nat.mod_lt k hw)
  rwa [Nat.div_add_mod', List.getD_eq_getElem _ _ hxs, List.getD_eq_getElem _ _ hys] at hbit

theorem byte_eq_of_bitsOf_eq {b₁ b₂ : Byte} (h : bitsOf 8 b₁.toNat = bitsOf 8 b₂.toNat) : b₁ = b₂ := by
  have hnumber := congrArg numberOf h
  rw [numberOf_bitsOf, numberOf_bitsOf, Nat.mod_eq_of_lt b₁.isLt, Nat.mod_eq_of_lt b₂.isLt] at hnumber
  exact BitVec.eq_of_toNat_eq hnumber

theorem eq_of_byteStream_eq {d₁ d₂ : List Byte} (hlength : d₁.length = d₂.length)
    (h : byteStream d₁ = byteStream d₂) : d₁ = d₂ := by
  induction d₁ generalizing d₂ with
  | nil => exact (List.length_eq_zero_iff.mp hlength.symm).symm
  | cons b₁ d₁ ih =>
    cases d₂ with
    | nil => simp at hlength
    | cons b₂ d₂ =>
      obtain ⟨hhead, htail⟩ : bitsOf 8 b₁.toNat = bitsOf 8 b₂.toNat ∧ byteStream d₁ = byteStream d₂ :=
        List.append_inj h (by simp)
      rw [byte_eq_of_bitsOf_eq hhead, ih (Nat.succ.inj hlength) htail]

/-! ### What the items of a pack job determine (R148) -/

theorem packItem_inj {p : Profile} {emitIdx : Bool} {i j : Nat} (hi : i < symbolCount p) (hj : j < symbolCount p)
    (h : packItem p emitIdx i = packItem p emitIdx j) : i = j := by
  cases emitIdx with
  | true =>
    have hdata : BitVec.ofNat 32 i = BitVec.ofNat 32 j := congrArg Item.data h
    rw [← toNat_ofNat_of_lt_symbolCount hi, hdata, toNat_ofNat_of_lt_symbolCount hj]
  | false => exact symtab_injective hi hj (congrArg Item.data h)

theorem groupAt_lt_symbolCount (p : Profile) (stream : List Bool) (j : Nat) :
    groupAt (chunkBits p) stream j < symbolCount p :=
  symbolCount_eq_pow p ▸ groupAt_lt _ stream j

/-- The chunks cover the whole stream of the bytes (R146). -/
theorem le_chunkCount_mul {cb : Nat} (hcb : 0 < cb) (n : Nat) : 8 * n ≤ chunkCount cb n * cb := by
  have hround : 8 * n + cb - 1 < cb * (chunkCount cb n + 1) := Nat.lt_mul_div_succ _ hcb
  rw [Nat.mul_succ, Nat.mul_comm cb] at hround
  omega

/-- Under Large each byte begins a chunk, but for every fifth one, which fills the chunk of the fourth. -/
theorem chunkCount_large (n : Nat) : chunkCount (chunkBits .large) n = n - n / 5 := by
  simp only [chunkCount, chunkBits]
  omega

/-- The number of chunks determines the number of bytes, but for Large with a pad of 8 bits. -/
theorem eq_of_chunkCount_eq {p : Profile} {m n : Nat} (hpad : p ≠ .large ∨ (m % 5 = 4 ↔ n % 5 = 4))
    (h : chunkCount (chunkBits p) m = chunkCount (chunkBits p) n) : m = n := by
  cases p with
  | tiny | small | standard =>
    simp only [chunkCount, chunkBits] at h
    omega
  | large =>
    have hpad := hpad.resolve_left (not_not_intro rfl)
    rw [chunkCount_large, chunkCount_large] at h
    omega

/-- The items determine the number of chunks and so of bytes, then each group and so the stream. -/
theorem eq_of_packJobItems_eq {p : Profile} {emitIdx : Bool} {d₁ d₂ : List Byte}
    (hpad : p ≠ .large ∨ (d₁.length % 5 = 4 ↔ d₂.length % 5 = 4))
    (h : packJobItems p emitIdx d₁ = packJobItems p emitIdx d₂) : d₁ = d₂ := by
  obtain ⟨hitems, -⟩ := List.append_inj' h rfl
  have hcount := congrArg List.length hitems
  simp only [packedIndices, List.length_map, List.length_range] at hcount
  have hlength := eq_of_chunkCount_eq hpad hcount
  rw [packedIndices, packedIndices, List.map_map, List.map_map, hcount] at hitems
  have hgroups (j : Nat) (hj : j < chunkCount (chunkBits p) d₂.length) :
      groupAt (chunkBits p) (byteStream d₁) j = groupAt (chunkBits p) (byteStream d₂) j :=
    packItem_inj (groupAt_lt_symbolCount p _ j) (groupAt_lt_symbolCount p _ j)
      (List.map_inj_left.mp hitems j (List.mem_range.mpr hj))
  refine eq_of_byteStream_eq hlength (eq_of_groupAt_eq (by simp [hlength]) ?_ hgroups)
  rw [length_byteStream, hlength]
  exact le_chunkCount_mul (chunkBits_pos p) d₂.length

theorem eq_of_packJob_fifo_eq {d₁ d₂ : List Byte} {s t₁ t₂ : State} (hjob : s.mode.jobOpen = false)
    (hpad : s.profile ≠ .large ∨ (d₁.length % 5 = 4 ↔ d₂.length % 5 = 4))
    (hrun₁ : runInstrs (packJob d₁) s = .next t₁) (hrun₂ : runInstrs (packJob d₂) s = .next t₂)
    (hfifo : t₁.fifo = t₂.fifo) : d₁ = d₂ := by
  obtain ⟨u₁, hu₁, hfifo₁⟩ := runInstrs_packJob_fifo d₁ hjob
  obtain ⟨u₂, hu₂, hfifo₂⟩ := runInstrs_packJob_fifo d₂ hjob
  obtain rfl := Host.Outcome.next.inj (hu₁.symm.trans hrun₁)
  obtain rfl := Host.Outcome.next.inj (hu₂.symm.trans hrun₂)
  rw [hfifo₁, hfifo₂] at hfifo
  exact eq_of_packJobItems_eq hpad (List.append_cancel_left hfifo)

/-- A zero byte more is the 8-bit pad written out, so it adds no chunk and changes none. -/
theorem packedIndices_append_zero {cb : Nat} {d : List Byte}
    (hcount : chunkCount cb (d.length + 1) = chunkCount cb d.length) :
    packedIndices cb (d ++ [0#8]) = packedIndices cb d := by
  have hstream : byteStream (d ++ [0#8]) = byteStream d ++ List.replicate 8 false := by
    simp [byteStream, bitsOf_zero_right]
  rw [packedIndices, packedIndices, List.length_append, List.length_singleton, hcount, hstream]
  exact List.map_congr_left fun j _ => groupAt_append_zeros cb _ 8 j

/-- Settles O24: within the clauses of injectivity the END count tells the lengths apart; in the third clause the
longer job has the same chunks. -/
theorem packingIsInjectiveExceptForLargeWithAnEightBitPad :
    Obligations.PackingIsInjectiveExceptForLargeWithAnEightBitPad := by
  refine ⟨fun _ _ _ _ _ hjob hprofile => eq_of_packJob_fifo_eq hjob (.inl hprofile),
    fun _ _ _ _ _ hjob _ hpad => eq_of_packJob_fifo_eq hjob (.inr hpad), fun d s hjob hlarge hpad => ?_⟩
  have hcount : chunkCount (chunkBits .large) (d.length + 1) = chunkCount (chunkBits .large) d.length := by
    rw [chunkCount_large, chunkCount_large]
    omega
  have hitems : packJobItems s.profile s.emitIdx (d ++ [0#8]) = packJobItems s.profile s.emitIdx d := by
    rw [hlarge, packJobItems, packJobItems, packedIndices_append_zero hcount, List.length_append,
      List.length_singleton, hcount]
  obtain ⟨t₁, hrun₁, hfifo₁⟩ := runInstrs_packJob_fifo d hjob
  obtain ⟨t₂, hrun₂, hfifo₂⟩ := runInstrs_packJob_fifo (d ++ [0#8]) hjob
  exact ⟨t₁, t₂, hrun₁, hrun₂, by rw [hfifo₁, hfifo₂, hitems]⟩

end Sys2Proof.Proofs
end

section
/-! PROOFS. The unpack family (spec 43_unpack.md): PUSH_IDX and PUSH_SYM in closed form, and the unpack half of
FLUSH. -/

namespace Sys2Proof.Proofs

open Sys2Proof Sys2Proof.Machine

/-! ### An index in range, by its symbol or raw (R163 to R165) -/

/-- The state after an index `x` was appended to the held bits: the top bytes are out and the rest is held (R165). -/
theorem exec_unpackCommand_eq {s : State} (hmode : s.mode = .unpack) (hcursor : s.cursorBelow 8) (bySymbol : Bool)
    {x : Nat} (hx : x < symbolCount s.profile) :
    let cb := chunkBits s.profile
    let v := s.acc.toNat * 2 ^ cb + x
    let h := s.held.toNat + cb
    exec (unpackCommand s.profile bySymbol x) s =
      .next { s with
        fifo := s.fifo ++ (List.range (h / 8)).map (fun j => emittedByte (v / 2 ^ (h - (j + 1) * 8) % 2 ^ 8))
        outCount := s.outCount + BitVec.ofNat 32 (h / 8)
        acc := BitVec.ofNat 18 (v % 2 ^ (h % 8))
        held := BitVec.ofNat 5 (h % 8)
        inCount := s.inCount + 1#32 } := by
  obtain ⟨-, hacc⟩ := hcursor
  have hbits : x < 2 ^ chunkBits s.profile := symbolCount_eq_pow s.profile ▸ hx
  rw [exec_unpackCommand hmode bySymbol hx, unpackIndex_eq, drain_spec (by decide) le_rfl (shift_in_lt hacc hbits),
    shift_or_eq _ _ _ hbits]
  simp only [State.countIn, List.map_map, List.length_map, List.length_range]
  rfl

theorem unpackCommand_raw (p : Profile) (x : Word32) : unpackCommand p false x.toNat = .pushIdx x := by
  simp [unpackCommand]

/-! ### The commands that ERROR discards (40_control.md R100, 60_exceptions.md R211) -/

theorem exec_of_discarded {s : State} {i : Instr} (hmode : s.mode = .error) (hcmd : isDiscardedInError i = true) :
    exec i s = .next s := by
  cases i with
  | pushByte b => exact exec_pushByte_error hmode b
  | flush => exact exec_flush_error hmode
  | pushSym sym =>
    show execPushSym sym s = _
    simp only [execPushSym, hmode]
  | pushIdx x =>
    show execPushIdx x s = _
    simp only [execPushIdx, hmode]
  | _ => simp [isDiscardedInError, isDataCommand] at hcmd

/-! ### The obligations on single commands -/

theorem not_unpack_nor_error_of_idle_or_pack {s : State} (hmode : s.mode = .idle ∨ s.mode = .pack) :
    s.mode ≠ .unpack ∧ s.mode ≠ .error := by
  obtain hm | hm := hmode <;> simp [hm]

/-- Settles O25: the closed form is that of an index in range; the other clauses are the table of errors (R204) and the
discard. -/
theorem pushIdxEmitsTheTopBytesAndKeepsTheRest : Obligations.PushIdxEmitsTheTopBytesAndKeepsTheRest := by
  refine ⟨wordOf_eq_or_opd 0x12#8 0#8 0#16, fun x s hmode hcursor hx => ?_, fun x s hmode hx => ?_,
    fun x s hmode => ?_, fun x s hmode => exec_of_discarded hmode rfl⟩
  · exact unpackCommand_raw s.profile x ▸ exec_unpackCommand_eq hmode hcursor false hx
  · exact exec_of_commandError (by simp [commandError, hmode, hx]) (by simp [hmode])
  · obtain ⟨hunpack, herror⟩ := not_unpack_nor_error_of_idle_or_pack hmode
    exact exec_of_commandError (if_pos hunpack) fun h => herror h.1

/-- Settles O26: the reverse search finds the index of a symbol of the table, which is then unpacked like a raw one. -/
theorem pushSymUnpacksTheIndexOfAKnownSymbol : Obligations.PushSymUnpacksTheIndexOfAKnownSymbol := by
  refine ⟨wordOf_eq_or_opd 0x11#8 0#8 0#16, fun i s hmode hcursor hi => exec_unpackCommand_eq hmode hcursor true hi,
    fun sym s hmode hsym => ?_, fun sym s hmode => ?_,
    fun sym s hmode => ⟨exec_of_discarded hmode rfl, exec_of_discarded hmode rfl⟩⟩
  · exact exec_of_commandError (by simp [commandError, hmode, hsym]) (by simp [hmode])
  · obtain ⟨hunpack, herror⟩ := not_unpack_nor_error_of_idle_or_pack hmode
    exact exec_of_commandError (if_pos hunpack) fun h => herror h.1

/-- Settles O27: FLUSH of an unpack job is the end of the job alone, which clears ACC and HELD unread. -/
theorem unpackFlushIgnoresTheLeftoverBits : Obligations.UnpackFlushIgnoresTheLeftoverBits := by
  intro s a h hmode
  have hflush := exec_flush_unpack hmode
  have hflush' := exec_flush_unpack (s := { s with acc := a, held := h }) hmode
  exact ⟨hflush'.trans hflush.symm, _, hflush, rfl, rfl, rfl, rfl, rfl⟩

end Sys2Proof.Proofs
end

section
/-! PROOFS. The unpack family (spec 43_unpack.md), continued: the index stream of a packed job is the byte stream and
its pad, so the unpack job gives the bytes back. -/

namespace Sys2Proof.Proofs

open Sys2Proof Sys2Proof.Machine

/-! ### The stream of the groups of a stream (20_memory.md R57, R58) -/

/-- A group spells its bits, those past the end of the stream read as 0. -/
theorem bitsOf_groupAt (w : Nat) (stream : List Bool) (j : Nat) :
    bitsOf w (groupAt w stream j) = (List.range w).map fun k => stream.getD (j * w + k) false := by
  refine eq_of_numberOf_eq (by simp) ?_
  rw [numberOf_bitsOf, Nat.mod_eq_of_lt (groupAt_lt w stream j), groupAt]

theorem indexStream_groupAt (w n : Nat) (stream : List Bool) :
    indexStream w ((List.range n).map (groupAt w stream)) =
      (List.range (n * w)).map fun k => stream.getD k false := by
  induction n with
  | zero => simp [indexStream]
  | succ n ih =>
    rw [indexStream] at ih ⊢
    rw [List.range_succ, List.map_append, List.flatMap_append, ih, Nat.succ_mul, List.range_add, List.map_append,
      List.map_map]
    simp [bitsOf_groupAt]

/-- Groups that reach the end of a stream spell it out, with zeros behind. -/
theorem indexStream_groupAt_of_le {w n : Nat} {stream : List Bool} (h : stream.length ≤ n * w) :
    indexStream w ((List.range n).map (groupAt w stream)) =
      stream ++ List.replicate (n * w - stream.length) false := by
  rw [indexStream_groupAt]
  refine List.ext_getElem (by simp [Nat.add_sub_of_le h]) fun k hk _ => ?_
  simp only [List.getElem_map, List.getElem_range, List.getElem_append, List.getElem_replicate]
  split
  case isTrue hlt => exact List.getD_eq_getElem _ _ hlt
  case isFalse hge => exact List.getD_eq_default _ _ (Nat.le_of_not_lt hge)

theorem byteStream_groupAt (n : Nat) (stream : List Bool) :
    byteStream ((List.range n).map fun k => BitVec.ofNat 8 (groupAt 8 stream k)) =
      indexStream 8 ((List.range n).map (groupAt 8 stream)) := by
  simp only [byteStream, indexStream, List.flatMap_map, toNat_ofNat_of_lt (groupAt_lt 8 stream _)]

/-- Bytes are the groups of 8 bits of their own stream. -/
theorem groupAt_byteStream (d : List Byte) :
    (List.range d.length).map (fun k => BitVec.ofNat 8 (groupAt 8 (byteStream d) k)) = d := by
  have hlength : (byteStream d).length = d.length * 8 := (length_byteStream d).trans (Nat.mul_comm _ _)
  refine eq_of_byteStream_eq (by simp) ?_
  rw [byteStream_groupAt, indexStream_groupAt_of_le hlength.le, hlength, Nat.sub_self, List.replicate_zero,
    List.append_nil]

/-! ### The bytes of a packed job (R169) -/

/-- Unpacking the chunks gives the bytes back, if the pad adds no whole byte to them. -/
theorem unpackedBytes_packedIndices {cb : Nat} (hcb : 0 < cb) {d : List Byte}
    (hpad : cb * chunkCount cb d.length / 8 = d.length) : unpackedBytes cb (packedIndices cb d) = d := by
  have hreach : (byteStream d).length ≤ chunkCount cb d.length * cb :=
    length_byteStream d ▸ le_chunkCount_mul hcb d.length
  have hcount : (packedIndices cb d).length = chunkCount cb d.length := by simp [packedIndices]
  rw [unpackedBytes, hcount, hpad, packedIndices, indexStream_groupAt_of_le hreach]
  simp only [groupAt_append_zeros]
  exact groupAt_byteStream d

/-- The pad is shorter than a byte, but for Large with n mod 5 = 4. -/
theorem chunkCount_bytes {p : Profile} {n : Nat} (h : ¬ (p = .large ∧ n % 5 = 4)) :
    chunkBits p * chunkCount (chunkBits p) n / 8 = n := by
  cases p with
  | tiny | small | standard =>
    simp only [chunkCount, chunkBits]
    omega
  | large =>
    have hmod : n % 5 ≠ 4 := fun h4 => h ⟨rfl, h4⟩
    rw [chunkCount_large, chunkBits]
    omega

/-- What the unpack job of a packed job gives back: the bytes, and the 8-bit pad of Large as one more. -/
def roundTrip (p : Profile) (d : List Byte) : List Byte :=
  if p = .large ∧ d.length % 5 = 4 then d ++ [0#8] else d

/-- The 8-bit pad of Large is the zero byte of a job that has one more byte and a pad shorter than a byte. -/
theorem unpackedBytes_packedIndices_eq_roundTrip (p : Profile) (d : List Byte) :
    unpackedBytes (chunkBits p) (packedIndices (chunkBits p) d) = roundTrip p d := by
  unfold roundTrip
  split
  case isTrue h =>
    obtain ⟨rfl, hmod⟩ := h
    have hcount : chunkCount (chunkBits .large) (d.length + 1) = chunkCount (chunkBits .large) d.length := by
      rw [chunkCount_large, chunkCount_large]
      omega
    have hlength : (d ++ [0#8]).length = d.length + 1 := List.length_append
    rw [← packedIndices_append_zero hcount]
    exact unpackedBytes_packedIndices (chunkBits_pos _) (chunkCount_bytes fun ⟨_, h⟩ => by omega)
  case isFalse h => exact unpackedBytes_packedIndices (chunkBits_pos p) (chunkCount_bytes h)

/-! ### The unpack job of the items -/

/-- The commands of the unpack job of packed items are those of their indices, raw under EMIT_IDX. -/
theorem unpackJobOf_packItems (p : Profile) (emitIdx : Bool) (xs : List Nat) :
    unpackJobOf emitIdx (xs.map (packItem p emitIdx)) =
      [.startUnpack] ++ (xs.map (Prod.mk (!emitIdx))).map (fun c => unpackCommand p c.1 c.2) ++ [.flush] := by
  cases emitIdx <;>
    simp [unpackJobOf, unpackIdxJob, unpackSymJob, unpackCommand, packItem, Function.comp_def]

/-- An unpack job of items that were packed from indices in range pushes the bytes of those indices and END. -/
theorem runInstrs_unpackJobOf_fifo {s : State} (hjob : s.mode.jobOpen = false) (emitIdx : Bool) {xs : List Nat}
    (hxs : ∀ x ∈ xs, x < symbolCount s.profile) :
    ∃ u, runInstrs (unpackJobOf emitIdx (xs.map (packItem s.profile emitIdx))) s = .next u ∧
      u.fifo = s.fifo ++ (unpackedBytes (chunkBits s.profile) xs).map byteItem ++
        [endItem (unpackedBytes (chunkBits s.profile) xs).length] := by
  have hrun := unpackJobRegroupsTheIndexStreamMostSignificantBitFirst (xs.map (Prod.mk (!emitIdx))) s hjob
    (by simpa using hxs)
  rw [← unpackJobOf_packItems] at hrun
  refine ⟨_, hrun, ?_⟩
  simp [unpackedBytes, Function.comp_def]

/-- A pack job leaves no job open and the profile as it was, so that an unpack job can follow under the same one. -/
theorem runInstrs_packJob_next (d : List Byte) {s : State} (hjob : s.mode.jobOpen = false) :
    ∃ t, runInstrs (packJob d) s = .next t ∧ t.mode.jobOpen = false ∧ t.profile = s.profile ∧
      t.fifo = s.fifo ++ (packedIndices (chunkBits s.profile) d).map (packItem s.profile s.emitIdx) ++
        [endItem (chunkCount (chunkBits s.profile) d.length)] :=
  ⟨_, packJobRegroupsTheByteStreamMostSignificantBitFirst d s hjob, rfl, rfl, rfl⟩

/-- Settles O29: the items of the pack job are those of the chunk indices, whose unpack job gives the bytes of the
round trip. -/
theorem unpackingAPackedJobGivesTheBytesBackButForTheLargePad :
    Obligations.UnpackingAPackedJobGivesTheBytesBackButForTheLargePad := by
  intro d s hjob
  obtain ⟨t, hpack, hjob', hprofile, hitems⟩ := runInstrs_packJob_next d hjob
  have hrange : ∀ x ∈ packedIndices (chunkBits s.profile) d, x < symbolCount t.profile := by
    simpa [packedIndices, hprofile] using fun j _ => groupAt_lt_symbolCount s.profile (byteStream d) j
  obtain ⟨u, hunpack, hbytes⟩ := runInstrs_unpackJobOf_fifo hjob' s.emitIdx hrange
  rw [hprofile, unpackedBytes_packedIndices_eq_roundTrip] at hbytes
  rw [hprofile] at hunpack
  refine ⟨_, t, u, hpack, ?_, hunpack, hbytes⟩
  simpa [packedIndices] using hitems

end Sys2Proof.Proofs
end

section
/-! PROOFS. The control and status register family (spec 44_csr.md): the word and the effect of WRCSR, and the value
the read port gives at every address. -/

namespace Sys2Proof.Proofs

open Sys2Proof Sys2Proof.Machine

/-! ### The word of WRCSR (R80, R83) -/

/-- The address is or-ed into the word at bit 48 (R80). -/
theorem wordOf_eq_or_csr (opc csr : BitVec 8) :
    wordOf ⟨opc, csr, 0#16, 0#32⟩ = wordOf ⟨opc, 0#8, 0#16, 0#32⟩ ||| (csr.setWidth 64 <<< 48) := by
  have hcsr : csr.setWidth 64 <<< 48 = 0#8 ++ csr ++ 0#16 ++ 0#32 := by
    apply BitVec.eq_of_toNat_eq
    rw [append_toNat, append_toNat, append_toNat, BitVec.toNat_shiftLeft, Nat.shiftLeft_eq, BitVec.toNat_setWidth]
    simp only [BitVec.toNat_zero]
    omega
  rw [wordOf, wordOf, hcsr, BitVec.or_append, BitVec.or_append, BitVec.or_append, BitVec.or_zero, BitVec.zero_or,
    BitVec.or_zero, BitVec.or_zero]

theorem encode_wrcsr (a : CsrAddr) (v : Word32) :
    encode (.wrcsr a v) = 0x3000000000000000#64 ||| (a.setWidth 64 <<< 48) ||| v.setWidth 64 := by
  rw [encode, fieldsOfInstr, wordOf_eq_or_opd, wordOf_eq_or_csr]
  rfl

/-! ### The writes (R190) -/

theorem exec_wrcsr_config_of_job {s : State} (h : s.mode = .pack ∨ s.mode = .unpack) (v : Word32) :
    exec (.wrcsr 0x01#8 v) s = .next (raiseError .sequenceError (encode (.wrcsr 0x01#8 v)) s) := by
  show Host.Outcome.next (writeCsr (some .config) v _ s) = _
  obtain hm | hm := h <;> simp only [writeCsr, hm]

theorem low_two_bits (v : Word32) : v.extractLsb' 0 2 = BitVec.ofNat 2 (v.toNat % 4) := by
  apply BitVec.eq_of_toNat_eq
  simp

/-- The profile that a written value selects through its low four bits (R25). -/
theorem profileOfCode_low_nibble (v : Word32) :
    profileOfCode (v.extractLsb' 0 4) =
      if v.toNat % 16 = 0 then .tiny else if v.toNat % 16 = 1 then .small
        else if v.toNat % 16 = 3 then .large else .standard := by
  simp only [profileOfCode, ← BitVec.toNat_inj, BitVec.extractLsb'_toNat, Nat.shiftRight_zero, BitVec.toNat_ofNat]

/-- Settles O30: the three writable registers one by one, and every other address by its name or by having none. -/
theorem wrcsrWritesTheThreeWritableRegistersOnly : Obligations.WrcsrWritesTheThreeWritableRegistersOnly := by
  refine ⟨encode_wrcsr, fun v s hmode => ?_, fun v s hmode => exec_wrcsr_config_of_job hmode v, fun v s => ?_,
    fun v s => ?_, fun a v s hconfig hen hpend => exec_wrcsr_of_not_writable hconfig hen hpend v s⟩
  · rw [execWrcsr_config hmode, State.writeConfig, profileOfCode_low_nibble]
  · rw [← low_two_bits]
    rfl
  · rw [← low_two_bits]
    rfl

/-! ### The read port (R182 to R189) -/

/-- A read of an implemented address gives the value of the register of that name (R183). -/
theorem csrRead_address (s : State) (c : CsrName) : s.csrRead c.address = s.csrValue c := by
  rw [State.csrRead, Laws.csr_ofAddress_address]

theorem csrRead_status (s : State) : s.csrRead 0x02#8 = s.statusWord :=
  csrRead_address s .status

theorem csrRead_profileInfo (s : State) : s.csrRead 0x0C#8 = profileInfoWord s.profile :=
  csrRead_address s .profileInfo

theorem csrName_address_le (c : CsrName) : c.address.toNat ≤ 0x0C := by
  cases c <;> decide

/-- No register stands above PROFILE_INFO (R182, R183). -/
theorem csrRead_of_unimplemented {a : CsrAddr} (h : 0x0D ≤ a.toNat) (s : State) : s.csrRead a = 0#32 := by
  have hnone : CsrName.ofAddress a = none := by
    refine Option.eq_none_iff_forall_ne_some.mpr fun c hc => ?_
    have hle := csrName_address_le c
    rw [Laws.csr_address_of_ofAddress hc] at hle
    omega
  rw [State.csrRead, hnone]

theorem hasRoom_toNat (s : State) : s.hasRoom.toNat = if 2 ≤ outDepth - s.fifo.length then 1 else 0 := by
  simp only [← hasRoom_iff, Bool.toNat, Bool.cond_eq_ite]

/-- STATUS as the sum of its fields at their places (R186). -/
theorem statusWord_toNat {s : State} (h : s.fifo.length ≤ 31) :
    s.statusWord.toNat = s.mode.code.toNat + 2 ^ 8 * s.held.toNat + 2 ^ 16 * s.fifo.length +
      2 ^ 24 * s.hasRoom.toNat := by
  have hlevel : (BitVec.ofNat 5 s.fifoLevel).toNat = s.fifo.length := toNat_ofNat_of_lt (Nat.lt_succ_of_le h)
  simp only [State.statusWord, append_toNat, hlevel, BitVec.toNat_zero, BitVec.toNat_ofBool]
  omega

/-- Settles O32: each implemented address by the layout of its register, the others by having none. -/
theorem csrReadGivesTheMappedValueAtEveryAddress : Obligations.CsrReadGivesTheMappedValueAtEveryAddress := by
  intro s hlevel
  refine ⟨csrRead_address s .id, ?config, ?status, ?acc, csrRead_address s .inCount, csrRead_address s .outCount,
    ?errCode, csrRead_address s .errCmdLo, csrRead_address s .errCmdHi, csrRead_address s .errPos, ?irqEn, ?irqPend,
    ?profileInfo, fun a ha => csrRead_of_unimplemented ha s⟩
  case config =>
    rw [csrRead_config, configWord_toNat]
    cases s.profile <;> rfl
  case status =>
    rw [csrRead_status, statusWord_toNat hlevel, hasRoom_toNat]
    cases s.mode <;> rfl
  case profileInfo =>
    rw [csrRead_profileInfo]
    cases s.profile <;> rfl
  case acc | errCode | irqEn | irqPend => exact BitVec.toNat_setWidth_of_le (by decide)

end Sys2Proof.Proofs
end

section
/-! PROOFS. The exception family (spec 60_exceptions.md): error entry and its record, the order of the errors, what ERROR
discards and what leaves it, the level of `irq`, and the edge at which no word is offered. -/

namespace Sys2Proof.Proofs

open Sys2Proof Sys2Proof.Machine

/-! ### Error entry (R206) -/

theorem low_half_of_word (w : CmdWord) : w.extractLsb' 0 32 = BitVec.ofNat 32 (w.toNat % 2 ^ 32) := by
  apply BitVec.eq_of_toNat_eq
  simp

theorem high_half_of_word (w : CmdWord) : w.extractLsb' 32 32 = BitVec.ofNat 32 (w.toNat / 2 ^ 32) := by
  apply BitVec.eq_of_toNat_eq
  simp [Nat.shiftRight_eq_div_pow]

/-- Settles O36: the two halves of the word by value, then the code of each error. -/
theorem errorEntryRecordsTheErrorAndNothingElse : Obligations.ErrorEntryRecordsTheErrorAndNothingElse := by
  intro e w s
  rw [raiseError, low_half_of_word, high_half_of_word]
  cases e <;> rfl

/-! ### The order of the errors (R204) -/

/-- No way to complete pushes an ERR item: it is the item of error entry alone. -/
theorem completes_pushes_no_err {s t : State} {i : Instr} (hdone : Completes s i t) :
    ∃ new, t.fifo = s.fifo ++ new ∧ ∀ x ∈ new, x.tag ≠ .err := by
  have hpack (p : Profile) (emitIdx : Bool) (j : Nat) : (packItem p emitIdx j).tag ≠ .err := by
    cases emitIdx <;> simp [packItem]
  cases hdone with
  | flushPack =>
    obtain ⟨is, -, hfinal⟩ := packFinal_eq s
    refine ⟨is.map (packItem s.profile s.emitIdx) ++ [⟨.jobEnd, (packFinal s).outCount⟩], ?_, ?_⟩
    · simp [hfinal]
    · simp [or_imp, forall_and, hpack]
  | flushUnpack | abortJob => exact ⟨_, rfl, by simp⟩
  | pushByte => exact ⟨_, congrArg State.fifo (packByte_eq _ s), by simp [hpack]⟩
  | pushIndex => exact ⟨_, congrArg State.fifo (unpackIndex_eq _ s), by simp⟩
  | lut hanswer =>
    refine ⟨_, rfl, ?_⟩
    obtain htag | htag := lutAnswer_tag hanswer <;> simp [htag]
  | nop | discard | startPack | startUnpack | abortNoJob | writeConfig | writeIrqEn | writeIrqPend =>
    exact ⟨[], (List.append_nil _).symm, by simp⟩

/-- A completed command may set IRQ_PEND.END, but not IRQ_PEND.ERR (R212). -/
theorem err_pending_of_completes {s t : State} {i : Instr} (hdone : Completes s i t)
    (h : t.irqPend.getLsbD 0 = true) : s.irqPend.getLsbD 0 = true := by
  obtain hpend | ⟨-, -, hpend⟩ | ⟨v, -, hpend⟩ := completes_irqPend hdone <;> rw [hpend] at h
  · exact h
  · have hend : irqEnd.getLsbD 0 = false := rfl
    rwa [getLsbD_raiseIrq, hend, Bool.or_false] at h
  · rw [getLsbD_clearIrq] at h
    exact Bool.and_elim_left h

/-- Settles O37: a command raises the error of its table, and without one it completes. -/
theorem errorsAreRaisedInTheOrderOfPriority : Obligations.ErrorsAreRaisedInTheOrderOfPriority := by
  intro w s
  refine ⟨fun hillegal => execute_of_not_legal hillegal s, fun i hdecode hmode hcmd => ?_, fun i hdecode hkept => ?_⟩
  · obtain rfl := encode_of_decode hdecode
    rw [execute_encode, exec_of_discarded hmode hcmd]
  · obtain rfl := encode_of_decode hdecode
    rw [execute_encode]
    refine ⟨fun e herror => exec_of_commandError herror hkept, fun hnone => ?_⟩
    obtain ⟨t, hexec⟩ := exec_total i s
    have hdone := completes_of_commandError_none hnone hexec
    obtain ⟨hcode, hlo, hhi, hpos⟩ := completes_errorRecord hdone
    exact ⟨t, hexec, hcode, hlo, hhi, hpos, err_pending_of_completes hdone, completes_pushes_no_err hdone⟩

/-! ### In ERROR (R211, R213, R214) -/

/-- Settles O39. -/
theorem dataCommandsAreDiscardedInError : Obligations.DataCommandsAreDiscardedInError := by
  intro s hmode
  simp only [execute_encode]
  exact ⟨fun _ => exec_of_discarded hmode rfl, fun _ => exec_of_discarded hmode rfl,
    fun _ => exec_of_discarded hmode rfl, exec_of_discarded hmode rfl⟩

theorem eq_start_or_abort_of_completes {s t : State} {i : Instr} (hdone : Completes s i t) (hmode : s.mode = .error)
    (hleft : t.mode ≠ .error) : i = .startPack ∨ i = .startUnpack ∨ i = .abort := by
  cases hdone with
  | startPack => exact .inl rfl
  | startUnpack => exact .inr (.inl rfl)
  | abortJob | abortNoJob => exact .inr (.inr rfl)
  | flushPack hm | flushUnpack hm | pushByte hm | pushIndex hm => simp [hmode] at hm
  | nop | discard | lut | writeConfig | writeIrqEn | writeIrqPend => exact absurd hmode hleft

/-- Settles O40: error entry stays in ERROR, and a completed command keeps the record. -/
theorem onlyStartAndAbortLeaveErrorAndTheRecordStays :
    Obligations.OnlyStartAndAbortLeaveErrorAndTheRecordStays := by
  constructor
  · intro s hmode
    have hjob : s.mode.jobOpen = false := not_jobOpen_iff.mpr (.inr hmode)
    simp only [execute_encode]
    exact ⟨⟨_, exec_startPack hjob, rfl⟩, ⟨_, exec_startUnpack hjob, rfl⟩, ⟨_, exec_abort_without_job hjob, rfl⟩⟩
  · intro w s t hmode hex hleft
    obtain ⟨e, rfl⟩ | ⟨i, rfl, hdone⟩ := execute_effects hex
    · exact absurd rfl hleft
    · refine ⟨?_, completes_errorRecord hdone⟩
      obtain rfl | rfl | rfl := eq_start_or_abort_of_completes hdone hmode hleft <;> simp

/-- Settles O41: either word is an error in every mode, and ABORT finds no open job in ERROR. -/
theorem nestedErrorOverwritesTheRecordAndAbortStillReturns :
    Obligations.NestedErrorOverwritesTheRecordAndAbortStillReturns := by
  intro w s _ hw
  obtain ⟨e, hex, he⟩ : ∃ e, execute w s = .next (raiseError e w s) ∧ (e = .illegalCmd ∨ e = .illegalCsr) := by
    obtain hillegal | ⟨a, v, rfl, hconfig, hen, hpend⟩ := hw
    · exact ⟨_, execute_of_not_legal hillegal s, .inl rfl⟩
    · exact ⟨_, (execute_encode _ s).trans (exec_wrcsr_of_not_writable hconfig hen hpend v s), .inr rfl⟩
  exact ⟨e, _, _, hex, rfl, rfl, rfl, rfl, rfl, he, exec_abort_without_job rfl, rfl⟩

/-! ### The interrupt (R212, 10_state.md R34) -/

theorem ne_zero_eq_or_bits : ∀ x : BitVec 2, (x != 0#2) = (x.getLsbD 0 || x.getLsbD 1) := by
  decide

/-- Settles O43: the masked bits are not all 0 exactly when one of the two is set. -/
theorem irqIsTheEnabledPendingLevel : Obligations.IrqIsTheEnabledPendingLevel := by
  intro s
  rw [State.irq, ne_zero_eq_or_bits, BitVec.getLsbD_and, BitVec.getLsbD_and]

/-! ### An edge at which no word is offered (R221, 20_memory.md R53) -/

theorem acceptedWord_of_cmdOnPort_none {s : State} (hport : s.cmdOnPort = none) : s.acceptedWord = none := by
  rw [State.acceptedWord, hport, ite_self]

/-- After the schedule the host offers every word it has left (log 4), so an idle port means that none is left and
nothing is held. -/
theorem heldForGood_of_cmdOnPort_none {s : State} (hport : s.cmdOnPort = none) : s.heldForGood = false := by
  cases hedges : s.edges with
  | nil =>
    have hnone : s.offered = [] := by simpa [State.cmdOnPort, State.currentEdge, hedges, quietEdge] using hport
    simp [State.heldForGood, hnone]
  | cons => simp [State.heldForGood, hedges]

/-- Settles O49. -/
theorem anEdgeWithoutACommandChangesOnlyWhatTheHostTakes :
    Obligations.AnEdgeWithoutACommandChangesOnlyWhatTheHostTakes := by
  intro s hrst hport
  rw [step_of_not_accepted hrst (acceptedWord_of_cmdOnPort_none hport), heldForGood_of_cmdOnPort_none hport,
    if_neg Bool.false_ne_true, State.afterNoAccept, dropPopped_self hrst]

end Sys2Proof.Proofs
end

section
/-! PROOFS. The reset family (spec 70_reset_and_hazards.md): what an edge with `rst_n = 0` does to the block and to its
ports. -/

namespace Sys2Proof.Proofs

open Sys2Proof Sys2Proof.Machine

/-! ### An edge in reset (R230) -/

theorem step_of_reset {s : State} (hrst : s.currentEdge.rstN = false) : step s = .next s.afterReset := by
  simp only [step, hrst]

theorem cmdReady_of_reset {s : State} (hrst : s.currentEdge.rstN = false) : s.cmdReady = false := by
  rw [State.cmdReady, hrst, Bool.false_and]

theorem acceptedWord_of_cmdReady_false {s : State} (hready : s.cmdReady = false) : s.acceptedWord = none := by
  rw [State.acceptedWord, hready, if_neg Bool.false_ne_true]

theorem resultOnPort_of_reset {s : State} (hrst : s.currentEdge.rstN = false) : s.resultOnPort = none := by
  rw [State.resultOnPort, hrst, if_neg Bool.false_ne_true]

theorem resValid_of_resultOnPort_none {s : State} (hport : s.resultOnPort = none) : s.resValid = false := by
  rw [State.resValid, hport, Option.isSome_none]

theorem poppedItem_of_resultOnPort_none {s : State} (hport : s.resultOnPort = none) : s.poppedItem = none := by
  rw [State.poppedItem, hport, ite_self]

/-- Settles O50: reset closes both ports, `cmd_ready` on the command side and the empty result port on the other, so no
word is accepted and no item leaves. -/
theorem resetEdgeRestoresTheResetStateAndAcceptsNothing :
    Obligations.ResetEdgeRestoresTheResetStateAndAcceptsNothing := by
  intro s hrst
  have hready := cmdReady_of_reset hrst
  have hport := resultOnPort_of_reset hrst
  exact ⟨step_of_reset hrst, hready, acceptedWord_of_cmdReady_false hready, resValid_of_resultOnPort_none hport,
    poppedItem_of_resultOnPort_none hport⟩

end Sys2Proof.Proofs
end
